-- ==== Sys2Proof/Word.lean ====
section
/-! DEFINITION. The widths of the block's values: 32-bit data words (00_scope.md R6 row DATA_W), the byte of a SEND
(30_encoding.md R56) and the 64-bit command word (30_encoding.md R52). Every value is unsigned (00_scope.md R8). -/

namespace Sys2Proof

/-- A 32-bit data word: the one width the block reads and writes (20_memory.md R39). -/
abbrev Word := BitVec 32

/-- A byte to transmit (10_state.md R16). -/
abbrev Byte := BitVec 8

/-- A command word of the host command port (30_encoding.md R52). -/
abbrev Cmd := BitVec 64

/-- `zext_32` of a byte (00_scope.md R9). -/
abbrev zext32 (b : Byte) : Word := b.setWidth 32

end Sys2Proof
end

