-- ==== Sys2Proof/Syntax.lean ====
section
/-! DEFINITION. The commands (30_encoding.md R54), one constructor per row of spec/opcode_table.json, and the
statements of the assembler text (30_encoding.md R62 to R64). -/

namespace Sys2Proof

/-- The commands of the block. -/
inductive Instr where
  /-- `CONFIGURE clk`: `clk` is the clock frequency in Hz, unsigned 32-bit, used whole (30_encoding.md R55). -/
  | configure (clk : Word)
  /-- `SEND b`: transmit the byte `b` (30_encoding.md R56). -/
  | send (b : Byte)
  deriving DecidableEq, Repr

/-- The statements of a command program (30_encoding.md R62), with operands as they are written: a number may be out of
range, and `Stmt.WellFormed` refuses it. -/
inductive Stmt where
  /-- `CONFIGURE <u32>` -/
  | configure (clk : Nat)
  /-- `CONFIGURE` with no operand (R64) -/
  | configureAbsent
  /-- `SEND <u8>`, or `SEND 'c'` with the character's ASCII code -/
  | send (b : Nat)
  /-- `.cmd <hex64>`: any word, legal or not -/
  | cmd (w : Nat)
  /-- `SENDSTR "<text>"` (R63), the text as the codes of its bytes -/
  | sendStr (bytes : List Nat)
  deriving DecidableEq, Repr

end Sys2Proof
end

