-- ==== Sys2Proof/WellFormed.lean ====
section
/-! DEFINITION. Well-formedness of the syntax. A command's operands are bounded by their types (30_encoding.md R55,
R56), so every term of `Instr` is well-formed; a written statement's operands are numbers and are checked
(30_encoding.md R62). The check of a parameter set is `Params.Admitted` in Machine/Params.lean; the check of a raw
64-bit word is the decoder. -/

namespace Sys2Proof

/-- Every 32-bit clock is legal (30_encoding.md R55) and every byte is (R56); the types hold exactly these. -/
def Instr.wellFormed : Instr → Bool
  | .configure _ => true
  | .send _ => true

/-- "An operand out of range is an assembler error; it is never truncated" (30_encoding.md R62). -/
def Stmt.wellFormed : Stmt → Bool
  | .configure clk => decide (clk < 2 ^ 32)
  | .configureAbsent => true
  | .send b => decide (b < 2 ^ 8)
  | .cmd w => decide (w < 2 ^ 64)
  | .sendStr bytes => bytes.all fun b => decide (b < 2 ^ 8)

end Sys2Proof
end

