-- ==== Sys2Proof/Decode.lean ====
section
/-! DEFINITION. Decoding of command words (30_encoding.md R52 to R60), total on every 64-bit word and rejecting by
name, and the encoder written from the same table. -/

namespace Sys2Proof

/-- `OPC`, bits 63:56 (30_encoding.md R53). -/
def cmdOpc (w : Cmd) : BitVec 8 := w.extractLsb' 56 8

/-- `RSVD`, bits 55:32 (30_encoding.md R53). -/
def cmdRsvd (w : Cmd) : BitVec 24 := w.extractLsb' 32 24

/-- `OPERAND`, bits 31:0 (30_encoding.md R53). -/
def cmdOperand (w : Cmd) : Word := w.extractLsb' 0 32

/-- `OPERAND[31:8]`, which a SEND must have zero (30_encoding.md R56). -/
def cmdOperandHi (w : Cmd) : BitVec 24 := w.extractLsb' 8 24

/-- `OPERAND[7:0]`, the byte of a SEND (30_encoding.md R56). -/
def cmdByte (w : Cmd) : Byte := w.extractLsb' 0 8

/-- The opcodes of 30_encoding.md R54. -/
def opcConfigure : BitVec 8 := 0x01
def opcSend : BitVec 8 := 0x02

/-- Why a word is illegal (30_encoding.md R58), in the order of the checks (60_exceptions.md R96). -/
inductive DecodeError where
  /-- `RSVD != 0` -/
  | reservedBits
  /-- `OPC` is 0x00 or in 0x03..0xFF -/
  | reservedOpcode
  /-- a SEND with `OPERAND[31:8] != 0` -/
  | sendOperandHigh
  deriving DecidableEq, Repr

/-- The decoding part of `Accept` (30_encoding.md R59): RSVD first, then the opcode, then the SEND operand. -/
def decode (w : Cmd) : Except DecodeError Instr :=
  if cmdRsvd w ≠ 0 then .error .reservedBits
  else if cmdOpc w = opcConfigure then .ok (.configure (cmdOperand w))
  else if cmdOpc w = opcSend then
    if cmdOperandHi w ≠ 0 then .error .sendOperandHigh else .ok (.send (cmdByte w))
  else .error .reservedOpcode

/-- The word of a command (30_encoding.md R53 to R56; the words of the table of R62). -/
def encode : Instr → Cmd
  | .configure clk => opcConfigure ++ (0 : BitVec 24) ++ clk
  | .send b => opcSend ++ (0 : BitVec 24) ++ (0 : BitVec 24) ++ b

/-- The host's view of the decoder: `w` is the word's bits, bit 0 the least significant; bits from `nbits` up are zero.
A command is one 64-bit word (30_encoding.md R52, R60), so more than 64 bits are no command (log 16). -/
def decodeTableWord (nbits w : Nat) : Option Instr :=
  if nbits ≤ 64 then
    match decode (BitVec.ofNat 64 (w % 2 ^ nbits)) with
    | .ok i => some i
    | .error _ => none
  else none

end Sys2Proof
end

