-- ==== Sys2Proof/Config.lean ====
section
/-! DEFINITION. What an implementation fixes (the parameter set, 00_scope.md R6) and the one free value the model
draws (the Device's answer to a read, 20_memory.md R42). The record of a bus transaction (20_memory.md R44) stands
here because the draw may depend on the history. The checks on a parameter set are in Machine/Params.lean. -/

namespace Sys2Proof

/-- The values of BUS_BYTE_ORDER, a parameter that no rule reads (20_memory.md R36, 92_eei_decisions.md D20). DESIGN CHOICE, log 2:
00_scope.md R6 gives it no width and no list of values and 91_not_in_source.md N9 finds none, so that there are these two is the
model's choice. -/
inductive ByteOrder where
  | little
  | big
  deriving DecidableEq, Repr

/-- The OPEN parameters of 00_scope.md R6, the model's arguments. Register offsets are indexes, not byte offsets.
The address width is itself open, so addresses, sizes and indexes are natural numbers. -/
structure Params where
  /-- `ADDR_W` -/
  addrW : Nat
  /-- `BASE_ADDR` -/
  baseAddr : Nat
  /-- `WINDOW_BYTES` -/
  windowBytes : Nat
  /-- `OFF_MDR` -/
  offMdr : Nat
  /-- `OFF_LCR` -/
  offLcr : Nat
  /-- `OFF_DLL` -/
  offDll : Nat
  /-- `OFF_DLM` -/
  offDlm : Nat
  /-- `OFF_FCR` -/
  offFcr : Nat
  /-- `OFF_LSR` -/
  offLsr : Nat
  /-- `OFF_THR` -/
  offThr : Nat
  /-- `VAL_MDR_ENTER` -/
  valMdrEnter : Word
  /-- `VAL_MDR_EXIT` -/
  valMdrExit : Word
  /-- `VAL_LCR_DLAB` -/
  valLcrDlab : Word
  /-- `VAL_LCR_8N1` -/
  valLcr8n1 : Word
  /-- `VAL_FCR_CLEAR` -/
  valFcrClear : Word
  /-- `MASK_LSR_THRE` -/
  maskLsrThre : Word
  /-- `BUS_BYTE_ORDER` -/
  busByteOrder : ByteOrder
  deriving DecidableEq, Repr

/-- The kind of a bus transaction (20_memory.md R44). -/
inductive BusKind where
  | read
  | write
  deriving DecidableEq, Repr

/-- One record of the bus-event history (20_memory.md R44). For a write, `value` is the written word; for a read, the
word the Device returned. -/
structure BusEvent where
  kind : BusKind
  /-- the register index -/
  off : Nat
  /-- the byte address, below `2^ADDR_W` in an admitted parameter set -/
  addr : Nat
  value : Word
  deriving DecidableEq, Repr

/-- FREE VALUE: what the Device answers to its `draw`-th read, at byte address `addr`, after the transactions of
`history`. "any value, under no law (an oracle draw)" (20_memory.md R42, 40_register_access.md R68). DESIGN CHOICE of
form, log 3: no body, so nothing can be proved of it. -/
opaque Config.deviceDraw (draw : Nat) (history : List BusEvent) (addr : Nat) : Word

end Sys2Proof
end

