-- ==== Sys2Proof/Machine/Params.lean ====
section
/-! DEFINITION. The parameter set's fixed constants and defaults (00_scope.md R6), the address function (20_memory.md
R38) and the configuration check (20_memory.md R40, 00_scope.md R7). -/

namespace Sys2Proof

/-- `TARGET_BAUD` (00_scope.md R6, fixed). -/
def targetBaud : Word := 115200

/-- `OVERSAMPLE` (00_scope.md R6, fixed). -/
def oversample : Word := 16

/-- `DIV_DENOM` = 16 * 115200 (00_scope.md R6). -/
def divDenom : Word := oversample * targetBaud

/-- `VAL_LCR_ZERO` (00_scope.md R6, fixed). -/
def valLcrZero : Word := 0

/-- The default parameter set. Offsets, values and ADDR_W are R6's defaults (PRESUMED: "from general knowledge, not in
source"); BASE_ADDR and WINDOW_BYTES have none, and the model takes the example values of 95_test_vectors.md
(DESIGN CHOICE); the byte order is read by no rule (DESIGN CHOICE). Log 2. -/
def Params.defaults : Params where
  addrW := 32
  baseAddr := 0x10000000
  windowBytes := 0x1000
  offMdr := 8
  offLcr := 3
  offDll := 0
  offDlm := 1
  offFcr := 2
  offLsr := 5
  offThr := 0
  valMdrEnter := 0x07
  valMdrExit := 0x00
  valLcrDlab := 0x80
  valLcr8n1 := 0x03
  valFcrClear := 0x06
  maskLsrThre := 0x20
  busByteOrder := .little

/-- The seven register indexes the block accesses, and no other (10_state.md R22). -/
def Params.offsets (p : Params) : List Nat :=
  [p.offMdr, p.offLcr, p.offDll, p.offDlm, p.offFcr, p.offLsr, p.offThr]

/-- `Addr(off) = (BASE_ADDR + 4 * off) mod 2^ADDR_W` (20_memory.md R38, 40_register_access.md R66). -/
def Params.addr (p : Params) (off : Nat) : Nat := (p.baseAddr + 4 * off) % 2 ^ p.addrW

/-- The configuration check of 20_memory.md R40 with the two constraints of 00_scope.md R7. The last clause is R6's
width of WINDOW_BYTES (BASE_ADDR's follows from the third line): DEDUCED, log 8. -/
abbrev Params.Admitted (p : Params) : Prop :=
  p.baseAddr % 4 = 0 ∧
  (p.windowBytes % 4 = 0 ∧ 4 ≤ p.windowBytes) ∧
  p.baseAddr + p.windowBytes ≤ 2 ^ p.addrW ∧
  (∀ off ∈ p.offsets, off < p.windowBytes / 4) ∧
  p.valLcr8n1 &&& p.valLcrDlab = 0 ∧
  p.valLcrDlab ≠ 0 ∧
  p.windowBytes < 2 ^ p.addrW

end Sys2Proof
end

