-- ==== Sys2Proof/Machine/Operands.lean ====
section
/-! DEFINITION. What the commands compute from their operands: the divisor (41_configuration.md R71), its bytes (R72)
and the configuration write table (R74). -/

namespace Sys2Proof.Machine

/-- `Divisor(clk) = clk / 1843200`, unsigned and truncating (41_configuration.md R71). -/
def divisorOf (clk : Word) : Word := clk / divDenom

/-- `DLL_VAL = zext_32(divisor[7:0])` (41_configuration.md R72). -/
def dllVal (divisor : Word) : Word := zext32 (divisor.extractLsb' 0 8)

/-- `DLM_VAL = zext_32(divisor[15:8])` (41_configuration.md R72). -/
def dlmVal (divisor : Word) : Word := zext32 (divisor.extractLsb' 8 8)

/-- The configuration write table (41_configuration.md R74): row `k` is `(W_off(k), W_val(k))`. -/
def cfgTable (p : Params) (divisor : Word) : List (Nat × Word) :=
  [ (p.offMdr, p.valMdrEnter),
    (p.offLcr, valLcrZero),
    (p.offLcr, p.valLcrDlab),
    (p.offDll, dllVal divisor),
    (p.offDlm, dlmVal divisor),
    (p.offLcr, p.valLcr8n1),
    (p.offFcr, p.valFcrClear),
    (p.offMdr, p.valMdrExit) ]

/-- Row `k` of the table; `k` has 3 bits, so there is always one. -/
def cfgRow (p : Params) (divisor : Word) (k : BitVec 3) : Nat × Word :=
  (cfgTable p divisor)[k.toNat]'k.isLt

end Sys2Proof.Machine
end

