-- ==== Sys2Proof/Machine/State.lean ====
section
/-! DEFINITION. The machine's state as plain data: the block's architectural state (10_state.md R12), the parameter set
(00_scope.md R6), the state of the Host and Device agents (00_scope.md R11), and which agent moves next (log 1). -/

namespace Sys2Proof.Machine

/-- What the block is doing (10_state.md R13). -/
inductive Phase where
  /-- no command in progress; the command port is ready -/
  | idle
  /-- executing CONFIGURE; `stepIx` selects the next write -/
  | cfg
  /-- executing SEND; the next transaction is a read of LSR -/
  | poll
  /-- executing SEND; THRE was seen set; the next transaction is the write of THR -/
  | tx
  deriving DecidableEq, Repr

/-- The Device agent as far as the block sees it: how it answers reads (20_memory.md R42) and whether it completes
transactions (R51). It stands for no law of the device: a Device move replaces it by any other (logs 1, 3, 7). -/
structure Device where
  /-- the answers to the next reads, in order -/
  answers : List Word
  /-- the answer to every read after those; `none`: a free value for each -/
  steady : Option Word
  /-- the Device is not completing the block's transaction -/
  stalled : Bool
  deriving DecidableEq, Repr

/-- Which agent moves (00_scope.md R11, 70_reset_and_hazards.md R112; log 1). -/
inductive Move where
  /-- the Host step or Block step that is enabled is taken -/
  | proceed
  /-- a Device step: the Device changes to any state -/
  | deviceChange (d : Device)
  /-- the Host samples STATUS -/
  | sampleStatus
  /-- the Host resets the block -/
  | resetBlock
  deriving DecidableEq, Repr

/-- The whole state. `phase` to `history` are the block's (10_state.md R12, and nothing else is); the rest are the
parameters and the environment's. -/
structure State where
  /-- the parameter set (00_scope.md R6); no step changes it -/
  params : Params
  /-- 10_state.md R13 -/
  phase : Phase
  /-- `step` (10_state.md R14) -/
  stepIx : BitVec 3
  /-- 10_state.md R15 -/
  divisor : Word
  /-- `tx_data` (10_state.md R16) -/
  txData : Byte
  /-- 10_state.md R17 -/
  configured : Bool
  /-- 10_state.md R18 -/
  err : BitVec 4
  /-- the bus-event history, oldest first (20_memory.md R44) -/
  history : List BusEvent
  /-- the words the Host has still to present, the head being held on the port (30_encoding.md R61) -/
  hostWords : List Cmd
  /-- the STATUS values the Host has sampled, oldest first (10_state.md R19; log 10) -/
  hostSamples : List Word
  /-- the Device agent -/
  device : Device
  /-- how many reads the Device has answered: the counter of the free values (log 3) -/
  draws : Nat
  /-- the moves of the next steps; when empty, `proceed` (log 1) -/
  agenda : List Move
  deriving DecidableEq, Repr

/-- No step of the block faults: there are no traps and no bus errors (60_exceptions.md R92, R107; 20_memory.md R51),
so the type is empty. Nobody raises one. Unsafe only where a real bus can return errors (log 13). -/
inductive Fault where
  deriving DecidableEq, Repr

/-- Why the model gives no meaning. -/
inductive Refusal where
  /-- an arm of `exec` with no meaning yet; no arm is. Safe. -/
  | notModelled (mnemonic : String)
  /-- raised by every step and every command's meaning when the parameter set fails the configuration check: "the model
  refuses it; it never gives the configuration a meaning" (20_memory.md R40, 00_scope.md R7). Safe. -/
  | parametersNotAdmitted
  /-- raised by a step of a platform whose blocks' windows overlap, which is outside the spec (60_exceptions.md R104).
  Safe. -/
  | windowsOverlap
  deriving DecidableEq, Repr

/-- A Device of which nothing is assumed: every answer is a free value (10_state.md R29). -/
def Device.free : Device := { answers := [], steady := none, stalled := false }

/-- The machine right after a reset that starts a run (10_state.md R32, 70_reset_and_hazards.md R108), with the parameter
set `p`. The environment's fields: log 4. -/
def State.resetWith (p : Params) : State where
  params := p
  phase := .idle
  stepIx := 0
  divisor := 0
  txData := 0
  configured := false
  err := 0
  history := []
  hostWords := []
  hostSamples := []
  device := Device.free
  draws := 0
  agenda := []

/-- The machine right after reset with the default parameter set (log 2). -/
def State.reset : State := State.resetWith Params.defaults

end Sys2Proof.Machine
end

