-- ==== Sys2Proof/Machine/Flags.lean ====
section
/-! DEFINITION. The block's only flags (10_state.md R31): ready and BUSY (R21), STATUS (R19), the error codes
(60_exceptions.md R93), and the THRE test (42_transmit.md R85). -/

namespace Sys2Proof.Machine

/-- The 2-bit value of `phase` (10_state.md R13). -/
def Phase.code : Phase → BitVec 2
  | .idle => 0
  | .cfg => 1
  | .poll => 2
  | .tx => 3

/-- The command port's *ready* (10_state.md R21). -/
def State.ready (s : State) : Bool := decide (s.phase = .idle)

/-- `BUSY = NOT ready` (10_state.md R21). -/
def State.busy (s : State) : Bool := !s.ready

/-- The errors a command can record (60_exceptions.md R93). -/
inductive CmdError where
  | illegalCommand
  | notConfigured
  deriving DecidableEq, Repr

/-- The error codes of 60_exceptions.md R93. -/
def CmdError.code : CmdError → BitVec 4
  | .illegalCommand => 1
  | .notConfigured => 2

/-- `STATUS = zext_32(err ++ 0b00 ++ configured ++ BUSY)` (10_state.md R19). -/
def State.status (s : State) : Word :=
  (s.err ++ (0 : BitVec 2) ++ BitVec.ofBool s.configured ++ BitVec.ofBool s.busy).setWidth 32

/-- The THRE test `(r AND MASK_LSR_THRE) != 0` (42_transmit.md R85). -/
def thre (p : Params) (r : Word) : Bool := decide (r &&& p.maskLsrThre ≠ 0)

end Sys2Proof.Machine
end

