-- ==== Sys2Proof/Machine/Ops.lean ====
section
/-! DEFINITION. The shared operations: the two bus primitives (40_register_access.md R67, R68), RecordError
(60_exceptions.md R97, the block's whole trap entry; there is no return, R98), reset (70_reset_and_hazards.md R108), and
the gate every command passes at the port (30_encoding.md R61). -/

namespace Sys2Proof.Machine

/-- Appends one record to the bus-event history (20_memory.md R44). -/
def State.appendEvent (s : State) (e : BusEvent) : State := { s with history := s.history ++ [e] }

/-- The event of a write of `v` to register `off` (40_register_access.md R67). -/
def writeEvent (p : Params) (off : Nat) (v : Word) : BusEvent :=
  { kind := .write, off := off, addr := p.addr off, value := v }

/-- The event of a read of register `off` that returned `r` (40_register_access.md R68). -/
def readEvent (p : Params) (off : Nat) (r : Word) : BusEvent :=
  { kind := .read, off := off, addr := p.addr off, value := r }

/-- `MmioWrite32(off, v)` (40_register_access.md R67): one write transaction, one event. The Device accepts every write;
its effect there is not part of the block (20_memory.md R42). -/
def mmioWrite32 (off : Nat) (v : Word) (s : State) : State := s.appendEvent (writeEvent s.params off v)

/-- `DeviceAnswer(history, a)` (40_register_access.md R68): the Device's next scripted answer, else its steady one, else a
free value (20_memory.md R42; log 3). -/
def State.deviceAnswer (s : State) (addr : Nat) : Word :=
  match s.device.answers, s.device.steady with
  | r :: _, _ => r
  | [], some r => r
  | [], none => Config.deviceDraw s.draws s.history addr

/-- The Device has answered a read: its script and the counter of draws move on (log 3). -/
def State.afterAnswer (s : State) : State :=
  { s with device := { s.device with answers := s.device.answers.tail }, draws := s.draws + 1 }

/-- `MmioRead32(off) -> r` (40_register_access.md R68): one read transaction, one event; the value is the Device's. -/
def mmioRead32 (off : Nat) (s : State) : Word × State :=
  let r := s.deviceAnswer (s.params.addr off)
  (r, s.afterAnswer.appendEvent (readEvent s.params off r))

/-- `RecordError(code)` (60_exceptions.md R97): the first error is kept, nothing else changes. -/
def State.recordError (s : State) (c : CmdError) : State :=
  if s.err = 0 then { s with err := c.code } else s

/-- Reset of the block (70_reset_and_hazards.md R108): every piece of block state takes its value of 10_state.md R32. The
Device's state carries over (R110), and the Host keeps what is its own (log 11). -/
def State.resetBlock (s : State) : State :=
  { s with
    phase := .idle
    stepIx := 0
    divisor := 0
    txData := 0
    configured := false
    err := 0
    history := [] }

/-- The command port (30_encoding.md R61) in front of a command's acceptance `f`: accepted when ready; while BUSY the word
"has no move until ready" (70_reset_and_hazards.md R112; DEDUCED, log 5); refused under a parameter set that is not
admitted (20_memory.md R40). -/
def whenReady (s : State) (f : State → State) : Host.Outcome State Fault Refusal :=
  if s.params.Admitted then
    if s.ready then .next (f s) else .next s
  else .refused .parametersNotAdmitted

end Sys2Proof.Machine
end

