-- ==== Sys2Proof/Machine/Configure.lean ====
section
/-! DEFINITION. CONFIGURE (41_configuration.md R73): its acceptance, which is what the Host step of 30_encoding.md R59
does, and the CFG step (R75) of which the block then takes eight. -/

namespace Sys2Proof.Machine

/-- `ConfigureAccept(clk)` (41_configuration.md R73). -/
def configureAccept (clk : Word) (s : State) : State :=
  { s with divisor := divisorOf clk, stepIx := 0, phase := .cfg }

/-- CONFIGURE, at its acceptance; its eight writes are the block's next eight steps. -/
def execConfigure (clk : Word) (s : State) : Host.Outcome State Fault Refusal :=
  whenReady s (configureAccept clk)

/-- `CfgStep` (41_configuration.md R75): the write of row `step`, then the next row, or after row 7 the end of the
command with `configured` set (R76). -/
def cfgStep (s : State) : State :=
  let row := cfgRow s.params s.divisor s.stepIx
  let t := mmioWrite32 row.1 row.2 s
  if s.stepIx = 7 then { t with configured := true, phase := .idle }
  else { t with stepIx := s.stepIx + 1 }

end Sys2Proof.Machine
end

