-- ==== Sys2Proof/Machine/Send.lean ====
section
/-! DEFINITION. SEND (42_transmit.md R82): its acceptance with the NOT_CONFIGURED check (30_encoding.md R59,
60_exceptions.md R95), the POLL step (42_transmit.md R84) and the TX step (R86). -/

namespace Sys2Proof.Machine

/-- The SEND branch of `Accept` for a legal word (30_encoding.md R59): NOT_CONFIGURED, or `SendAccept(b)`
(42_transmit.md R83). -/
def sendAccept (b : Byte) (s : State) : State :=
  if s.configured then { s with txData := b, phase := .poll } else s.recordError .notConfigured

/-- SEND, at its acceptance; its polls and its write are the block's next steps. -/
def execSend (b : Byte) (s : State) : Host.Outcome State Fault Refusal :=
  whenReady s (sendAccept b)

/-- `PollStep` (42_transmit.md R84): one fresh read of LSR; the phase becomes TX when it shows THRE set, and stays POLL
otherwise, with no bound (R87). -/
def pollStep (s : State) : State :=
  let rt := mmioRead32 s.params.offLsr s
  if thre s.params rt.1 then { rt.2 with phase := .tx } else rt.2

/-- `TxStep` (42_transmit.md R86): the write of `zext_32(tx_data)` to THR ends the command. -/
def txStep (s : State) : State :=
  { mmioWrite32 s.params.offThr (zext32 s.txData) s with phase := .idle }

end Sys2Proof.Machine
end

