-- ==== Sys2Proof/Machine/Dispatch.lean ====
section
/-! DEFINITION. The one dispatch from commands to their meanings. -/

namespace Sys2Proof.Machine

def exec (i : Instr) (s : State) : Host.Outcome State Fault Refusal :=
  match i with
  | .configure clk => Sys2Proof.Machine.execConfigure clk s
  | .send b => Sys2Proof.Machine.execSend b s

end Sys2Proof.Machine
end

