-- ==== Sys2Proof/Machine/Agents.lean ====
section
/-! DEFINITION. The steps of the agents (00_scope.md R11): the Host step that accepts a word (30_encoding.md R59, R61), the
Block step (41_configuration.md R75, 42_transmit.md R84, R86), and the moves of the environment. Machine/Step.lean only
calls `takeStep`. -/

namespace Sys2Proof.Machine

/-- The Host step of 30_encoding.md R59 on the word `w`: a legal word is executed, an illegal one only records
ILLEGAL_COMMAND (R58, 60_exceptions.md R94). -/
def acceptWord (w : Cmd) (s : State) : Host.Outcome State Fault Refusal :=
  match decode w with
  | .ok i => exec i s
  | .error _ => whenReady s fun t => t.recordError .illegalCommand

/-- The word on the port is taken by its acceptance (30_encoding.md R61). -/
def State.popWord (s : State) : State := { s with hostWords := s.hostWords.tail }

/-- The port is ready: a presented word is accepted, and without one the block waits (70_reset_and_hazards.md R108; DEDUCED,
log 6). -/
def hostStep (s : State) : Host.Outcome State Fault Refusal :=
  match s.hostWords with
  | [] => .next s
  | w :: _ => acceptWord w s.popWord

/-- The Block step of the phase: exactly one bus transaction, or, in IDLE, none is enabled. While the Device does not
complete the transaction the block is stuck: no step of it happens and BUSY stays 1 (20_memory.md R51; log 7). -/
def blockStep (s : State) : State :=
  if s.device.stalled then s
  else
    match s.phase with
    | .idle => s
    | .cfg => cfgStep s
    | .poll => pollStep s
    | .tx => txStep s

/-- The Host step or Block step that is enabled; ready decides which (10_state.md R21). -/
def proceed (s : State) : Host.Outcome State Fault Refusal :=
  if s.ready then hostStep s else .next (blockStep s)

/-- The Host samples STATUS: no side effect on the block (10_state.md R19); the Host keeps what it saw (log 10). -/
def State.sampleStatus (s : State) : State := { s with hostSamples := s.hostSamples ++ [s.status] }

/-- A move that has been made leaves the agenda. -/
def State.popMove (s : State) : State := { s with agenda := s.agenda.tail }

/-- One move (00_scope.md R11; 70_reset_and_hazards.md R112; log 1). -/
def makeMove (m : Move) (s : State) : Host.Outcome State Fault Refusal :=
  match m with
  | .proceed => proceed s
  | .deviceChange d => .next { s with device := d }
  | .sampleStatus => .next s.sampleStatus
  | .resetBlock => .next s.resetBlock

/-- The move of the next step: the agenda's first, or `proceed` (log 1). -/
def State.nextMove (s : State) : Move := s.agenda.headD .proceed

/-- One step of the model: one agent's step, under an admitted parameter set (20_memory.md R40). -/
def takeStep (s : State) : Host.Outcome State Fault Refusal :=
  if s.params.Admitted then makeMove s.nextMove s.popMove else .refused .parametersNotAdmitted

/-- The machine with the word `w` on the port and the port ready, its acceptance being the next move (log 9). -/
def State.presentWord (s : State) (w : Cmd) : State :=
  { s with phase := .idle, hostWords := w :: s.hostWords, agenda := .proceed :: s.agenda }

end Sys2Proof.Machine
end

