-- ==== Sys2Proof/Machine/Step.lean ====
section
/-! DEFINITION. The step of the machine, and how the host places a command to be run next. -/

namespace Sys2Proof.Machine

/-- One step: see `takeStep`. -/
def step (s : State) : Host.Outcome State Fault Refusal := takeStep s

/-- The block fetches nothing (20_memory.md R48): a command comes from the port, so the word is put at the head of what the
Host presents, the port is made ready and the next move is its acceptance (log 9). -/
def State.withFetchWord (s : State) (nbits w : Nat) : State :=
  s.presentWord (BitVec.ofNat 64 (w % 2 ^ nbits))

end Sys2Proof.Machine
end

