-- ==== Sys2Proof/Machine/Assembler.lean ====
section
/-! DEFINITION. The textual form of a command program (30_encoding.md R62) and its pseudo-instructions (R63, R64). What
the rules leave open of the text (blanks, blank lines, quotes around a semicolon, capitals) is a DESIGN CHOICE, log 12. -/

namespace Sys2Proof

/-- Why a line is no statement. "An operand out of range is an assembler error; it is never truncated" (30_encoding.md
R62). -/
inductive AsmError where
  | unknownStatement
  | badOperand
  | badText
  | outOfRange
  | trailingText
  deriving DecidableEq, Repr

/-- The words of a statement (30_encoding.md R62): CONFIGURE with no operand is `CONFIGURE 0` (R64), and SENDSTR is one
SEND per byte, in order, none for the empty text (R63). Asked of well-formed statements only. -/
def Stmt.words : Stmt → List Cmd
  | .configure clk => [encode (.configure (BitVec.ofNat 32 clk))]
  | .configureAbsent => [encode (.configure 0)]
  | .send b => [encode (.send (BitVec.ofNat 8 b))]
  | .cmd w => [BitVec.ofNat 64 w]
  | .sendStr bytes => bytes.map fun b => encode (.send (BitVec.ofNat 8 b))

/-- The words of a statement, or the error of an operand out of range (30_encoding.md R62). -/
def Stmt.assemble (t : Stmt) : Except AsmError (List Cmd) :=
  if t.wellFormed then .ok t.words else .error .outOfRange

/-- Blanks between the parts of a line. -/
def isBlank (c : Char) : Bool := c == ' ' || c == '\t' || c == '\r'

def skipBlanks (cs : List Char) : List Char := cs.dropWhile isBlank

/-- A part of a line ends at a blank or at a comment. -/
def inToken (c : Char) : Bool := !isBlank c && c != ';'

/-- Nothing but a comment is left: "A `;` starts a comment that runs to the end of the line" (30_encoding.md R62). -/
def atLineEnd (cs : List Char) : Bool :=
  match skipBlanks cs with
  | [] => true
  | c :: _ => c == ';'

/-- The value of a digit, decimal or hexadecimal. -/
def digitVal (c : Char) : Option Nat :=
  if '0' ≤ c ∧ c ≤ '9' then some (c.toNat - 48)
  else if 'a' ≤ c ∧ c ≤ 'f' then some (c.toNat - 87)
  else if 'A' ≤ c ∧ c ≤ 'F' then some (c.toNat - 55)
  else none

/-- The value of digits in a base, continuing from `acc`. -/
def digitsFrom (base acc : Nat) : List Char → Option Nat
  | [] => some acc
  | c :: cs =>
    match digitVal c with
    | none => none
    | some d => if d < base then digitsFrom base (base * acc + d) cs else none

/-- At least one digit. -/
def digits (base : Nat) (cs : List Char) : Option Nat :=
  if cs.isEmpty then none else digitsFrom base 0 cs

/-- `<u32>`, `<u8>`: decimal or `0x` hex (30_encoding.md R62). -/
def number : List Char → Option Nat
  | '0' :: 'x' :: ds => digits 16 ds
  | ds => digits 10 ds

/-- `<hex64>`: `0x` hex (30_encoding.md R62). -/
def hexNumber : List Char → Option Nat
  | '0' :: 'x' :: ds => digits 16 ds
  | _ => none

/-- The ASCII code of a character, if it has one (30_encoding.md R62, R63). -/
def asciiCode (c : Char) : Option Nat := if c.toNat < 128 then some c.toNat else none

/-- The rest of a `SENDSTR` text after its opening quote, with the escapes of 30_encoding.md R63: its bytes and what
follows the closing quote. -/
def sendStrText : List Char → Option (List Nat × List Char)
  | [] => none
  | '"' :: rest => some ([], rest)
  | '\\' :: 'n' :: rest => (sendStrText rest).map fun p => (10 :: p.1, p.2)
  | '\\' :: 'r' :: rest => (sendStrText rest).map fun p => (13 :: p.1, p.2)
  | '\\' :: '\\' :: rest => (sendStrText rest).map fun p => (92 :: p.1, p.2)
  | '\\' :: '"' :: rest => (sendStrText rest).map fun p => (34 :: p.1, p.2)
  | '\\' :: 'x' :: h :: l :: rest =>
    match digits 16 [h, l] with
    | none => none
    | some b => (sendStrText rest).map fun p => (b :: p.1, p.2)
  | '\\' :: _ => none
  | c :: rest =>
    match asciiCode c with
    | none => none
    | some b => (sendStrText rest).map fun p => (b :: p.1, p.2)

/-- A statement whose operand is one token, and nothing after it. -/
def tokenOperand (read : List Char → Option Nat) (mk : Nat → Stmt) (cs : List Char) : Except AsmError Stmt :=
  match read (cs.takeWhile inToken) with
  | none => .error .badOperand
  | some n => if atLineEnd (cs.dropWhile inToken) then .ok (mk n) else .error .trailingText

/-- `CONFIGURE <u32>`, or `CONFIGURE` alone (30_encoding.md R62, R64). -/
def parseConfigure (cs : List Char) : Except AsmError Stmt :=
  if atLineEnd cs then .ok .configureAbsent else tokenOperand number .configure cs

/-- `SEND <u8>`, or `SEND 'c'` (30_encoding.md R62). -/
def parseSend : List Char → Except AsmError Stmt
  | '\'' :: c :: '\'' :: rest =>
    match asciiCode c with
    | none => .error .badOperand
    | some b => if atLineEnd rest then .ok (.send b) else .error .trailingText
  | cs => tokenOperand number .send cs

/-- `SENDSTR "<text>"` (30_encoding.md R63). -/
def parseSendStr : List Char → Except AsmError Stmt
  | '"' :: cs =>
    match sendStrText cs with
    | none => .error .badText
    | some (bytes, rest) => if atLineEnd rest then .ok (.sendStr bytes) else .error .trailingText
  | _ => .error .badText

/-- One line: a statement, or none on a line of blanks and comment (30_encoding.md R62). -/
def parseLine (line : List Char) : Except AsmError (Option Stmt) :=
  let cs := skipBlanks line
  let kw := cs.takeWhile inToken
  let rest := skipBlanks (cs.dropWhile inToken)
  if kw = [] then .ok none
  else if kw = "CONFIGURE".toList then (parseConfigure rest).map some
  else if kw = "SEND".toList then (parseSend rest).map some
  else if kw = ".cmd".toList then (tokenOperand hexNumber .cmd rest).map some
  else if kw = "SENDSTR".toList then (parseSendStr rest).map some
  else .error .unknownStatement

/-- The words of one line. -/
def assembleLine (line : List Char) : Except AsmError (List Cmd) :=
  match parseLine line with
  | .error e => .error e
  | .ok none => .ok []
  | .ok (some t) => t.assemble

/-- "one statement per line" (30_encoding.md R62). -/
def splitLines : List Char → List (List Char)
  | [] => [[]]
  | c :: cs =>
    if c = '\n' then [] :: splitLines cs
    else
      match splitLines cs with
      | [] => [[c]]
      | l :: ls => (c :: l) :: ls

/-- The words of the lines, in order; the first bad line is the error. -/
def assembleLines : List (List Char) → Except AsmError (List Cmd)
  | [] => .ok []
  | l :: ls =>
    match assembleLine l with
    | .error e => .error e
    | .ok ws =>
      match assembleLines ls with
      | .error e => .error e
      | .ok vs => .ok (ws ++ vs)

/-- A command program as text, to the words the Host presents (30_encoding.md R62 to R64). -/
def assemble (text : String) : Except AsmError (List Cmd) := assembleLines (splitLines text.toList)

end Sys2Proof
end

