-- ==== Sys2Proof/Machine/Platform.lean ====
section
/-! DEFINITION. A platform with several UARTs (60_exceptions.md R104): one block per window, each with its own parameters
and command port, sharing no state. Which block steps is the caller's choice (log 14). -/

namespace Sys2Proof.Machine

/-- The blocks of a platform. -/
abbrev Platform := List State

/-- Two windows have no byte in common. -/
abbrev windowsApart (p q : Params) : Prop :=
  p.baseAddr + p.windowBytes ≤ q.baseAddr ∨ q.baseAddr + q.windowBytes ≤ p.baseAddr

/-- No two windows overlap; overlapping ones "are outside the spec" (60_exceptions.md R104). -/
abbrev Platform.Disjoint (bs : Platform) : Prop := bs.Pairwise fun a b => windowsApart a.params b.params

/-- One step of block `i`; there are no inter-block signals (60_exceptions.md R104). -/
def Platform.step (i : Nat) (bs : Platform) : Host.Outcome Platform Fault Refusal :=
  if bs.Disjoint then
    match bs[i]? with
    | none => .next bs
    | some s =>
      match Machine.step s with
      | .next t => .next (bs.set i t)
      | .fault f => .fault f
      | .refused r => .refused r
  else .refused .windowsOverlap

end Sys2Proof.Machine
end

