-- ==== Sys2Proof/Safety.lean ====
section
/-! DEFINITION. The vocabulary of the claims: runs and their end (70_reset_and_hazards.md R120), the observation
(10_state.md R35), the state invariant, what a list of accepted words makes the block do (the trace grammar), the last
LCR write, the premise of a SEND's completion (42_transmit.md R87), what agrees between two states, and `Accept` written as 30_encoding.md R59 has it. -/

namespace Sys2Proof.Machine

/-- `n` steps of the machine. -/
def runSteps : Nat → State → Host.Outcome State Fault Refusal
  | 0, s => .next s
  | n + 1, s =>
    match step s with
    | .next t => runSteps n t
    | .fault f => .fault f
    | .refused r => .refused r

/-- A program has ended: its last word is accepted and the block is IDLE again (70_reset_and_hazards.md R120). -/
abbrev State.Ended (s : State) : Prop := s.hostWords = [] ∧ s.phase = .idle

/-- The next move lets the Host or Block step be taken and the Device completes its transaction. -/
abbrev State.Proceeds (s : State) : Prop := s.nextMove = .proceed ∧ s.device.stalled = false

/-- The only observable outputs: the bus-event history and STATUS (10_state.md R35). -/
def State.observe (s : State) : List BusEvent × Word := (s.history, s.status)

/-- `Accept(cmd)` over the bits, as the pseudocode of 30_encoding.md R59 is written, for a block in IDLE. -/
def acceptPseudocode (cmd : Cmd) (s : State) : State :=
  if cmd.extractLsb' 32 24 ≠ 0 then s.recordError .illegalCommand
  else if cmd.extractLsb' 56 8 = 0x01 then
    { s with divisor := cmd.extractLsb' 0 32 / 1843200, stepIx := 0, phase := .cfg }
  else if cmd.extractLsb' 56 8 = 0x02 then
    if cmd.extractLsb' 8 24 ≠ 0 then s.recordError .illegalCommand
    else if s.configured = false then s.recordError .notConfigured
    else { s with txData := cmd.extractLsb' 0 8, phase := .poll }
  else s.recordError .illegalCommand

/-- A word is illegal (30_encoding.md R58). -/
def IllegalWord (cmd : Cmd) : Prop :=
  (cmd.extractLsb' 56 8 = 0x00 ∨ 0x03 ≤ (cmd.extractLsb' 56 8).toNat) ∨
  cmd.extractLsb' 32 24 ≠ 0 ∨
  (cmd.extractLsb' 56 8 = 0x02 ∧ cmd.extractLsb' 8 24 ≠ 0)

/-- An event of the block: one of the seven registers, at its address (10_state.md R22, 20_memory.md R38). -/
abbrev EventOk (p : Params) (e : BusEvent) : Prop := e.off ∈ p.offsets ∧ e.addr = p.addr e.off

/-- The states the rules describe: legal error codes (60_exceptions.md R93), the divisor's range (41_configuration.md
R72), no SEND before a CONFIGURE has completed (60_exceptions.md R95), `step` outside CFG (10_state.md R20), and every event
at one of the seven registers (10_state.md R22). -/
structure State.Inv (s : State) : Prop where
  errLegal : s.err.toNat ≤ 2
  divisorRange : s.divisor.toNat ≤ 2330
  sendConfigured : s.phase = .poll ∨ s.phase = .tx → s.configured = true
  stepOutsideCfg : s.phase ≠ .cfg → s.stepIx = if s.configured then 7 else 0
  eventsOk : ∀ e ∈ s.history, EventOk s.params e

/-- The eight-write trace of `CONFIGURE clk` (41_configuration.md R74). -/
def configureTrace (p : Params) (clk : Word) : List BusEvent :=
  (cfgTable p (divisorOf clk)).map fun row => writeEvent p row.1 row.2

/-- The trace of a SEND's polls (42_transmit.md R84): one LSR read per answer. -/
def pollTrace (p : Params) (answers : List Word) : List BusEvent :=
  answers.map fun r => readEvent p p.offLsr r

/-- A command that has ended. A SEND carries what its polls read: the clear answers, then the one that showed THRE. -/
inductive EndedCommand where
  | configure (clk : Word)
  | send (b : Byte) (clear : List Word) (last : Word)
  deriving DecidableEq, Repr

/-- Which command it was. -/
def EndedCommand.instr : EndedCommand → Instr
  | .configure clk => .configure clk
  | .send b _ _ => .send b

/-- "Reads 1 to n-1 returned THRE clear and read n returned it set" (42_transmit.md R89). -/
def EndedCommand.Ok (p : Params) : EndedCommand → Prop
  | .configure _ => True
  | .send _ clear last => (∀ r ∈ clear, thre p r = false) ∧ thre p last = true

/-- Its bus events: table R74, or the polls and then exactly one THR write (42_transmit.md R89). -/
def EndedCommand.trace (p : Params) : EndedCommand → List BusEvent
  | .configure clk => configureTrace p clk
  | .send b clear last => pollTrace p (clear ++ [last]) ++ [writeEvent p p.offThr (zext32 b)]

/-- The commands that accepted words make the block run, in order: legal words, a SEND only once a CONFIGURE has run
(30_encoding.md R59). -/
def commandsOf (configured : Bool) : List Cmd → List Instr
  | [] => []
  | w :: ws =>
    match decode w with
    | .error _ => commandsOf configured ws
    | .ok (.configure clk) => .configure clk :: commandsOf true ws
    | .ok (.send b) => if configured then .send b :: commandsOf true ws else commandsOf false ws

/-- The code of the first error that accepted words record (60_exceptions.md R93 to R97). -/
def firstErrorOf (configured : Bool) : List Cmd → BitVec 4
  | [] => 0
  | w :: ws =>
    match decode w with
    | .error _ => 1
    | .ok (.configure _) => firstErrorOf true ws
    | .ok (.send _) => if configured then firstErrorOf true ws else 2

/-- The part of the history and of the accepted commands that belongs to the command in progress. -/
def InProgress (s : State) (events : List BusEvent) (cmds : List Instr) : Prop :=
  match s.phase with
  | .idle => events = [] ∧ cmds = []
  | .cfg => ∃ clk, s.divisor = divisorOf clk ∧ cmds = [.configure clk] ∧
      events = (configureTrace s.params clk).take s.stepIx.toNat
  | .poll => ∃ clear, (∀ r ∈ clear, thre s.params r = false) ∧ cmds = [.send s.txData] ∧
      events = pollTrace s.params clear
  | .tx => ∃ clear last, (∀ r ∈ clear, thre s.params r = false) ∧ thre s.params last = true ∧
      cmds = [.send s.txData] ∧ events = pollTrace s.params (clear ++ [last])

/-- The block's state is what the words accepted since reset prescribe: the history is the traces of their commands in
order, ended ones whole and the one in progress as far as it has come (41_configuration.md R77, 42_transmit.md R89, R91);
`configured` says whether a CONFIGURE has ended (10_state.md R17); `err` is the first error (60_exceptions.md R97). -/
def Explains (accepted : List Cmd) (s : State) : Prop :=
  ∃ (ended : List EndedCommand) (events : List BusEvent) (cmds : List Instr),
    (∀ c ∈ ended, c.Ok s.params) ∧
    InProgress s events cmds ∧
    s.history = ended.flatMap (EndedCommand.trace s.params) ++ events ∧
    commandsOf false accepted = ended.map EndedCommand.instr ++ cmds ∧
    (s.configured = true ↔ ∃ clk, EndedCommand.configure clk ∈ ended) ∧
    s.err = firstErrorOf false accepted

/-- The last value the block wrote to LCR. -/
def lastLcrWrite (p : Params) (history : List BusEvent) : Option Word :=
  ((history.filter fun e => decide (e.kind = .write ∧ e.off = p.offLcr)).getLast?).map BusEvent.value

/-- LCR shares its offset with no register the block writes after row 5 (the defaults of 00_scope.md R6 are so). -/
abbrev LcrApart (p : Params) : Prop := p.offFcr ≠ p.offLcr ∧ p.offMdr ≠ p.offLcr ∧ p.offThr ≠ p.offLcr

/-- Once row 5 of a CONFIGURE is written, and from its end on, the last LCR write is the 8N1 value
(70_reset_and_hazards.md R115). -/
def State.LcrInv (s : State) : Prop :=
  (s.phase = .cfg → 6 ≤ s.stepIx.toNat → lastLcrWrite s.params s.history = some s.params.valLcr8n1) ∧
  (s.phase ≠ .cfg → s.configured = true → lastLcrWrite s.params s.history = some s.params.valLcr8n1) ∧
  (s.phase = .poll ∨ s.phase = .tx → s.configured = true)

/-- What is the block's own: everything of 10_state.md R12. -/
abbrev SameBlock (s t : State) : Prop :=
  t.phase = s.phase ∧ t.stepIx = s.stepIx ∧ t.divisor = s.divisor ∧ t.txData = s.txData ∧
  t.configured = s.configured ∧ t.err = s.err ∧ t.history = s.history

/-- What is the Host's and the Device's, with the parameters: no command writes it. -/
abbrev SameEnvironment (s t : State) : Prop :=
  t.params = s.params ∧ t.hostWords = s.hostWords ∧ t.hostSamples = s.hostSamples ∧ t.device = s.device ∧
  t.draws = s.draws ∧ t.agenda = s.agenda

/-- The Device's `n`-th answer, counting from 0, when the block reads LSR again and again from `s`. -/
def State.nthAnswer (s : State) : Nat → Word
  | 0 => s.deviceAnswer (s.params.addr s.params.offLsr)
  | n + 1 => (mmioRead32 s.params.offLsr s).2.nthAnswer n

/-- The premise of 42_transmit.md R87 for a SEND that polls from `s`: "some LSR read of the SEND returns THRE set". It is a
claim's assumption, never a law of the model. -/
def DeviceEventuallyReady (s : State) : Prop := ∃ n, thre s.params (s.nthAnswer n) = true

end Sys2Proof.Machine
end

