-- ==== Sys2Proof/Certificates/Slice0/Obligations.lean ====
section
/-! DEFINITION. The statements for the provers. Each docstring names the rule or section of spec/ it formalises. -/

open Sys2Proof Sys2Proof.Machine

/-! ## Encoding -/

/-- 30_encoding.md R53 to R57: the decoder reads every command back from its word, with every operand value. -/
def Obligations.DecodeOfEncodeIsTheCommand : Prop :=
  ∀ i : Instr, i.wellFormed = true → decode (encode i) = .ok i

/-- 30_encoding.md R53 to R58: a word that decodes is the encoding of what it decodes to, so each legal word has one
meaning and no bit of it is ignored. -/
def Obligations.EncodeOfDecodeIsTheWord : Prop :=
  ∀ (w : Cmd) (i : Instr), decode w = .ok i → i.wellFormed = true ∧ encode i = w

/-- 30_encoding.md R58: the decoder refuses exactly the words the rule calls illegal. -/
def Obligations.DecoderRefusesExactlyIllegalWords : Prop :=
  ∀ w : Cmd, (∃ e, decode w = .error e) ↔ IllegalWord w

/-- 30_encoding.md R54, R62 and 95_test_vectors.md 2.2: words written out from the encoding. -/
def Obligations.WrittenOutWordsDecode : Prop :=
  decode 0x01000000FFFFFFFF = .ok (.configure 4294967295) ∧
  decode 0x01000000001C2000 = .ok (.configure 1843200) ∧
  decode 0x0200000000000041 = .ok (.send 0x41) ∧
  decode 0x02000000000000FF = .ok (.send 0xFF) ∧
  decode 0x0180000000000000 = .error .reservedBits ∧
  decode 0x0200000080000000 = .error .sendOperandHigh ∧
  decode 0x0000000000000000 = .error .reservedOpcode

/-- The model's choice, log 9: `withFetchWord` makes the next step run exactly that command. -/
def Obligations.FetchedWordIsRunNext : Prop :=
  ∀ (s : State) (i : Instr), s.params.Admitted → i.wellFormed = true →
    decodeTableWord 64 (encode i).toNat = some i ∧
    step (s.withFetchWord 64 (encode i).toNat) = exec i { s with phase := .idle }

/-! ## The command port -/

/-- 30_encoding.md R59, R61: when the port is ready and the word on it decodes, the step is that command's meaning, on the
state from which the word (and the move) is taken. -/
def Obligations.StepRunsTheDecodedCommand : Prop :=
  ∀ (s : State) (w : Cmd) (ws : List Cmd) (i : Instr), s.params.Admitted → s.nextMove = .proceed → s.phase = .idle →
    s.hostWords = w :: ws → decode w = .ok i → i.wellFormed = true →
    step s = exec i { s with hostWords := ws, agenda := s.agenda.tail }

/-- 30_encoding.md R59: the Host step is the pseudocode of the rule, for every 64-bit word. -/
def Obligations.HostStepIsAcceptPseudocode : Prop :=
  ∀ (s : State) (w : Cmd) (ws : List Cmd), s.params.Admitted → s.nextMove = .proceed → s.phase = .idle →
    s.hostWords = w :: ws →
    step s = .next (acceptPseudocode w { s with hostWords := ws, agenda := s.agenda.tail })

/-- 30_encoding.md R58, 60_exceptions.md R94: an illegal word is accepted and only records ILLEGAL_COMMAND (code 1), if no
error is recorded yet. -/
def Obligations.IllegalWordOnlyRecordsIllegalCommand : Prop :=
  ∀ (s : State) (w : Cmd) (ws : List Cmd), s.params.Admitted → s.nextMove = .proceed → s.phase = .idle →
    s.hostWords = w :: ws → IllegalWord w →
    step s = .next { s with
      hostWords := ws, agenda := s.agenda.tail, err := if s.err = 0 then 1 else s.err }

/-- 30_encoding.md R61: a step takes a word exactly when valid and ready hold (and the move is the Host's), it takes the
first one, and otherwise every word stays held. That the words stay held over a reset too is the model's choice, log 11; which
agent moves is log 1. -/
def Obligations.WordsAreAcceptedOnceInOrder : Prop :=
  ∀ s t : State, step s = .next t →
    (s.nextMove = .proceed ∧ s.phase = .idle → t.hostWords = s.hostWords.tail) ∧
    (¬(s.nextMove = .proceed ∧ s.phase = .idle) → t.hostWords = s.hostWords)

/-- 70_reset_and_hazards.md R113: while BUSY no command is accepted: every word waits, it is no error and is not lost. That the
words stay held over a reset taken while BUSY is the model's choice, log 11; R113 does not speak of reset. -/
def Obligations.CommandWhileBusyWaits : Prop :=
  ∀ s t : State, s.phase ≠ .idle → step s = .next t →
    t.hostWords = s.hostWords ∧ (s.nextMove ≠ .resetBlock → t.err = s.err)

/-- 70_reset_and_hazards.md R112 ("has no move until ready"); that a command's meaning, applied while BUSY, answers the same
state is the model's reading, log 5. -/
def Obligations.CommandMeaningWaitsWhileBusy : Prop :=
  ∀ (s : State) (i : Instr), s.params.Admitted → s.phase ≠ .idle → exec i s = .next s

/-- 70_reset_and_hazards.md R108 ("the block waits for a command"); that waiting is a step which changes nothing is the
model's reading, log 6. -/
def Obligations.ReadyPortWithoutWordWaits : Prop :=
  ∀ s : State, s.params.Admitted → s.nextMove = .proceed → s.phase = .idle → s.hostWords = [] →
    step s = .next { s with agenda := s.agenda.tail }

/-! ## The commands at acceptance -/

/-- 41_configuration.md R73 (ConfigureAccept): a CONFIGURE on a ready port completes its acceptance for every clock, whatever
`configured` and `err` hold. -/
def Obligations.ConfigureAcceptanceLatchesDivisor : Prop :=
  ∀ (s : State) (clk : Word), s.params.Admitted → s.phase = .idle →
    exec (.configure clk) s =
      .next { s with divisor := BitVec.ofNat 32 (clk.toNat / 1843200), stepIx := 0, phase := .cfg }

/-- 42_transmit.md R83, the effect of its pseudocode SendAccept: a SEND on a ready, configured port completes its acceptance
for every byte. -/
def Obligations.SendAcceptanceLatchesByte : Prop :=
  ∀ (s : State) (b : Byte), s.params.Admitted → s.phase = .idle → s.configured = true →
    exec (.send b) s = .next { s with txData := b, phase := .poll }

/-- 60_exceptions.md R95, R97: a legal SEND with `configured = 0` records NOT_CONFIGURED (code 2), if no error is recorded
yet, and does nothing else. -/
def Obligations.UnconfiguredSendOnlyRecordsNotConfigured : Prop :=
  ∀ (s : State) (b : Byte), s.params.Admitted → s.phase = .idle → s.configured = false →
    exec (.send b) s = .next { s with err := if s.err = 0 then 2 else s.err }

/-- 41_configuration.md R73, 10_state.md R12: what CONFIGURE leaves unchanged at acceptance, in every state: no bus event, no
error, and everything but `divisor`, `step` and `phase`. That the meaning, applied while BUSY, leaves all of the block is the
model's reading, log 5, and no clause of R73 or R12. -/
def Obligations.ConfigureFrame : Prop :=
  ∀ (s t : State) (clk : Word), exec (.configure clk) s = .next t →
    SameEnvironment s t ∧ t.txData = s.txData ∧ t.configured = s.configured ∧ t.err = s.err ∧ t.history = s.history ∧
    (s.phase ≠ .idle → SameBlock s t)

/-- 42_transmit.md R82, R83: what SEND leaves unchanged at acceptance, in every state: no bus event, and everything but
`tx_data`, `phase` and, only when the SEND is rejected, `err`. That the meaning, applied while BUSY, leaves all of the block is
the model's reading, log 5, and no clause of R82 or R83. -/
def Obligations.SendFrame : Prop :=
  ∀ (s t : State) (b : Byte), exec (.send b) s = .next t →
    SameEnvironment s t ∧ t.stepIx = s.stepIx ∧ t.divisor = s.divisor ∧ t.configured = s.configured ∧
    t.history = s.history ∧ (s.configured = true → t.err = s.err) ∧
    (s.configured = false → t.txData = s.txData ∧ t.phase = s.phase) ∧
    (s.phase ≠ .idle → SameBlock s t)

/-! ## The Block steps -/

/-- 41_configuration.md R74, R75, R76: a CFG step writes row `step` of the table and nothing else, then goes to the next
row; row 7 sets `configured` and returns to IDLE. -/
def Obligations.CfgStepWritesItsRow : Prop :=
  ∀ s : State, s.params.Admitted → s.Proceeds → s.phase = .cfg →
    ∃ off v,
      [ (s.params.offMdr, s.params.valMdrEnter), (s.params.offLcr, (0 : Word)), (s.params.offLcr, s.params.valLcrDlab),
        (s.params.offDll, zext32 (s.divisor.extractLsb' 0 8)), (s.params.offDlm, zext32 (s.divisor.extractLsb' 8 8)),
        (s.params.offLcr, s.params.valLcr8n1), (s.params.offFcr, s.params.valFcrClear),
        (s.params.offMdr, s.params.valMdrExit) ][s.stepIx.toNat]? = some (off, v) ∧
      step s = .next { s with
        agenda := s.agenda.tail
        history := s.history ++ [⟨.write, off, (s.params.baseAddr + 4 * off) % 2 ^ s.params.addrW, v⟩]
        stepIx := if s.stepIx.toNat = 7 then s.stepIx else BitVec.ofNat 3 (s.stepIx.toNat + 1)
        phase := if s.stepIx.toNat = 7 then .idle else .cfg
        configured := if s.stepIx.toNat = 7 then true else s.configured }

/-- 42_transmit.md R84, R85: a POLL step is one read of LSR, whose value is the Device's answer, and nothing else of the block
changes but the phase, which becomes TX exactly when the answer has the THRE bit. -/
def Obligations.PollStepReadsLsrOnce : Prop :=
  ∀ s : State, s.params.Admitted → s.Proceeds → s.phase = .poll →
    ∃ t, step s = .next t ∧
      t.history = s.history ++ [⟨.read, s.params.offLsr, (s.params.baseAddr + 4 * s.params.offLsr) % 2 ^ s.params.addrW,
        s.nthAnswer 0⟩] ∧
      t.phase = (if s.nthAnswer 0 &&& s.params.maskLsrThre ≠ 0 then .tx else .poll) ∧
      t.stepIx = s.stepIx ∧ t.divisor = s.divisor ∧ t.txData = s.txData ∧ t.configured = s.configured ∧ t.err = s.err ∧
      t.params = s.params ∧ t.hostWords = s.hostWords ∧ t.hostSamples = s.hostSamples ∧ t.agenda = s.agenda.tail

/-- 42_transmit.md R86, R90: the TX step writes the zero-extended byte to THR and ends the command. -/
def Obligations.TxStepWritesThr : Prop :=
  ∀ s : State, s.params.Admitted → s.Proceeds → s.phase = .tx →
    step s = .next { s with
      agenda := s.agenda.tail
      history := s.history ++ [⟨.write, s.params.offThr, (s.params.baseAddr + 4 * s.params.offThr) % 2 ^ s.params.addrW,
        BitVec.ofNat 32 s.txData.toNat⟩]
      phase := .idle }

/-- 20_memory.md R51: a transaction the Device does not complete leaves the block stuck, not faulted, with BUSY 1; that this
is a step which changes nothing is the model's form, log 7. -/
def Obligations.UncompletedTransactionLeavesBlockStuck : Prop :=
  ∀ s : State, s.params.Admitted → s.nextMove = .proceed → s.phase ≠ .idle → s.device.stalled = true →
    step s = .next { s with agenda := s.agenda.tail } ∧ s.status.getLsbD 0 = true

/-! ## Whole commands -/

/-- 41_configuration.md R73, R74, R77: from a ready port with `CONFIGURE clk` on it, nine steps (the acceptance and eight
writes) append the eight writes of the table in order and end in IDLE with `configured = 1`. -/
def Obligations.ConfigureRunsToItsEnd : Prop :=
  ∀ (s : State) (clk : Word) (ws : List Cmd), s.params.Admitted → s.agenda = [] → s.device.stalled = false →
    s.phase = .idle → s.hostWords = encode (.configure clk) :: ws →
    runSteps 9 s = .next { s with
      hostWords := ws
      divisor := BitVec.ofNat 32 (clk.toNat / 1843200)
      stepIx := 7
      configured := true
      history := s.history ++ configureTrace s.params clk }

/-- 42_transmit.md R87, R89: under the premise DeviceEventuallyReady a SEND that polls ends: n clear reads, one read with
THRE set, then exactly one THR write. That with an empty agenda the Block step is always taken is the model's form of the weak
fairness of 70_reset_and_hazards.md R119, log 1. -/
def Obligations.SendEndsWhenDeviceEventuallyReady : Prop :=
  ∀ s : State, s.params.Admitted → s.agenda = [] → s.device.stalled = false → s.phase = .poll →
    DeviceEventuallyReady s →
    ∃ (clear : List Word) (last : Word) (t : State),
      runSteps (clear.length + 2) s = .next t ∧ t.phase = .idle ∧
      (∀ r ∈ clear, thre s.params r = false) ∧ thre s.params last = true ∧
      t.history = s.history ++ (EndedCommand.send s.txData clear last).trace s.params ∧
      t.hostWords = s.hostWords ∧ t.configured = s.configured ∧ t.err = s.err

/-- 42_transmit.md R87: without THRE the poll has no end: after any number of steps the block still polls, every step was one
LSR read, BUSY is 1 and no later word is accepted. -/
def Obligations.SendPollsForEverWithoutThre : Prop :=
  ∀ s : State, s.params.Admitted → s.agenda = [] → s.device.stalled = false → s.phase = .poll →
    ¬DeviceEventuallyReady s →
    ∀ n, ∃ (t : State) (answers : List Word), runSteps n s = .next t ∧ t.phase = .poll ∧ t.status.getLsbD 0 = true ∧
      t.hostWords = s.hostWords ∧ answers.length = n ∧ (∀ r ∈ answers, thre s.params r = false) ∧
      t.history = s.history ++ pollTrace s.params answers

/-- 42_transmit.md R87 ("A model must admit the infinite run"): with a Device that answers every read with 0 the premise
fails, so the run of SendPollsForEverWithoutThre is in the model. -/
def Obligations.EndlessPollIsAdmitted : Prop :=
  ∀ s : State, s.params.Admitted → s.agenda = [] → s.phase = .poll →
    s.device = { answers := [], steady := some 0, stalled := false } →
    ¬DeviceEventuallyReady s ∧
    ∀ n, ∃ t, runSteps n s = .next t ∧ t.phase = .poll ∧ t.history.length = s.history.length + n

/-! ## Values -/

/-- 41_configuration.md R71: exact unsigned truncating division. -/
def Obligations.DivisorTruncates : Prop :=
  ∀ clk : Word, (divisorOf clk).toNat = clk.toNat / 1843200

/-- 41_configuration.md R72: the bytes written, the divisor's bound, and that the two bytes lose nothing of it. -/
def Obligations.DivisorBytesLoseNothing : Prop :=
  ∀ clk : Word,
    (dllVal (divisorOf clk)).toNat = (divisorOf clk).toNat % 256 ∧
    (dlmVal (divisorOf clk)).toNat = (divisorOf clk).toNat / 256 ∧
    (divisorOf clk).toNat ≤ 2330 ∧ (dlmVal (divisorOf clk)).toNat ≤ 9

/-- 20_memory.md R37, R38, 40_register_access.md R69: under the configuration check every access is aligned, inside the
window, and the `mod` of the address function never changes a result. -/
def Obligations.AccessesAreAlignedAndInWindow : Prop :=
  ∀ (p : Params) (off : Nat), p.Admitted → off ∈ p.offsets →
    p.addr off = p.baseAddr + 4 * off ∧ p.addr off % 4 = 0 ∧ p.baseAddr ≤ p.addr off ∧
    p.addr off + 4 ≤ p.baseAddr + p.windowBytes ∧ p.addr off + 4 ≤ 2 ^ p.addrW

/-- 10_state.md R19, R21: every field of STATUS, and that a sample has no side effect on the block. That the Host keeps the sampled value in `hostSamples` is the model's choice,
log 10. -/
def Obligations.StatusShowsBusyConfiguredErr : Prop :=
  (∀ s : State,
    s.status.getLsbD 0 = decide (s.phase ≠ .idle) ∧ s.status.getLsbD 1 = s.configured ∧
    s.status.extractLsb' 2 2 = 0 ∧ s.status.extractLsb' 4 4 = s.err ∧ s.status.extractLsb' 8 24 = 0) ∧
  (∀ s : State, s.params.Admitted → s.nextMove = .sampleStatus →
    step s = .next { s with agenda := s.agenda.tail, hostSamples := s.hostSamples ++ [s.status] })

/-- 40_register_access.md R67: a write is one event with the whole value, and nothing else changes. -/
def Obligations.MmioWriteAppendsOneEvent : Prop :=
  ∀ (s : State) (off : Nat) (v : Word),
    mmioWrite32 off v s = { s with
      history := s.history ++ [⟨.write, off, (s.params.baseAddr + 4 * off) % 2 ^ s.params.addrW, v⟩] }

/-- 40_register_access.md R68, 20_memory.md R42: a read is one event that records what it returns, and changes nothing else of
the block. Where the answer comes from is the model's form, log 3: the next scripted one, else the steady one, else the free
value of the counter, the history and the address. -/
def Obligations.MmioReadReturnsTheDevicesAnswer : Prop :=
  ∀ (s : State) (off : Nat),
    (mmioRead32 off s).2 = { s with
      history := s.history ++ [⟨.read, off, (s.params.baseAddr + 4 * off) % 2 ^ s.params.addrW, (mmioRead32 off s).1⟩]
      device := { s.device with answers := s.device.answers.tail }
      draws := s.draws + 1 } ∧
    (∀ r rs, s.device.answers = r :: rs → (mmioRead32 off s).1 = r) ∧
    (∀ r, s.device.answers = [] → s.device.steady = some r → (mmioRead32 off s).1 = r) ∧
    (s.device.answers = [] → s.device.steady = none →
      (mmioRead32 off s).1 = Config.deviceDraw s.draws s.history ((s.params.baseAddr + 4 * off) % 2 ^ s.params.addrW))

/-- 60_exceptions.md R97: the first error is kept and nothing else changes. -/
def Obligations.RecordErrorKeepsTheFirst : Prop :=
  ∀ (s : State) (c : CmdError),
    s.recordError c = { s with err := if s.err = 0 then c.code else s.err } ∧ (s.recordError c).err ≠ 0

/-! ## Rules about every step -/

/-- 60_exceptions.md R98, 10_state.md R18: only reset clears `err`, and no later error changes it. -/
def Obligations.ErrIsStickyUntilReset : Prop :=
  ∀ s t : State, step s = .next t → s.err ≠ 0 →
    (s.nextMove ≠ .resetBlock → t.err = s.err) ∧ (s.nextMove = .resetBlock → t.err = 0)

/-- 60_exceptions.md R93 to R96: `err` is written only by accepting an erroneous word: an illegal one (code 1) or a legal SEND
without configuration (code 2). -/
def Obligations.ErrIsWrittenOnlyByErroneousWords : Prop :=
  ∀ s t : State, step s = .next t → s.err = 0 → t.err ≠ 0 →
    s.nextMove = .proceed ∧ s.phase = .idle ∧ t.phase = .idle ∧ t.history = s.history ∧
    ∃ w ws, s.hostWords = w :: ws ∧
      ((IllegalWord w ∧ t.err = 1) ∨ ((∃ b, decode w = .ok (.send b)) ∧ s.configured = false ∧ t.err = 2))

/-- 41_configuration.md R76, 10_state.md R17: `configured` becomes 1 in the step that writes row 7 and in no other, and nothing
but reset clears it. -/
def Obligations.ConfiguredSetOnlyByLastRow : Prop :=
  ∀ s t : State, step s = .next t →
    (s.Proceeds ∧ s.phase = .cfg ∧ s.stepIx = 7 →
      t.configured = true ∧
      t.history = s.history ++ [writeEvent s.params s.params.offMdr s.params.valMdrExit]) ∧
    (s.configured = false → t.configured = true → s.Proceeds ∧ s.phase = .cfg ∧ s.stepIx = 7) ∧
    (s.configured = true → t.configured = false → s.nextMove = .resetBlock) ∧
    (s.nextMove = .resetBlock → t.configured = false)

/-- 10_state.md R20: the pair (phase, step) advances exactly as the rule lists, for every kind of step, and a Host sample and a
Device step leave it. That a wait without a word (log 6) and a transaction the Device does not complete (log 7) are steps, and
that they leave the pair, is the model's reading and not in R20's list. -/
def Obligations.PhaseAndStepAdvanceAsListed : Prop :=
  ∀ s t : State, step s = .next t →
    (s.nextMove = .resetBlock → t.phase = .idle ∧ t.stepIx = 0) ∧
    (s.nextMove ≠ .resetBlock → s.nextMove ≠ .proceed → t.phase = s.phase ∧ t.stepIx = s.stepIx) ∧
    (s.nextMove = .proceed → s.phase = .idle →
      (s.hostWords = [] → t.phase = .idle ∧ t.stepIx = s.stepIx) ∧
      ∀ w ws, s.hostWords = w :: ws →
        (∀ clk, decode w = .ok (.configure clk) → t.phase = .cfg ∧ t.stepIx = 0) ∧
        (∀ b, decode w = .ok (.send b) → t.phase = (if s.configured then .poll else .idle) ∧ t.stepIx = s.stepIx) ∧
        (∀ e, decode w = .error e → t.phase = .idle ∧ t.stepIx = s.stepIx)) ∧
    (s.nextMove = .proceed → s.phase ≠ .idle → s.device.stalled = true → t.phase = s.phase ∧ t.stepIx = s.stepIx) ∧
    (s.Proceeds → s.phase = .cfg → s.stepIx.toNat < 7 → t.phase = .cfg ∧ t.stepIx.toNat = s.stepIx.toNat + 1) ∧
    (s.Proceeds → s.phase = .cfg → s.stepIx.toNat = 7 → t.phase = .idle ∧ t.stepIx.toNat = 7) ∧
    (s.Proceeds → s.phase = .poll →
      t.phase = (if thre s.params (s.nthAnswer 0) then .tx else .poll) ∧ t.stepIx = s.stepIx) ∧
    (s.Proceeds → s.phase = .tx → t.phase = .idle ∧ t.stepIx = s.stepIx)

/-- 20_memory.md R44, R45: a Block step whose transaction completes appends exactly one record, at one of the seven registers;
a reset empties the history; every other step leaves it. That a wait without a word and an uncompleted transaction are steps at
all is the model's reading, logs 6 and 7. -/
def Obligations.EveryTransactionIsOneEvent : Prop :=
  ∀ s t : State, step s = .next t →
    (s.Proceeds ∧ s.phase ≠ .idle → ∃ e, EventOk s.params e ∧ t.history = s.history ++ [e]) ∧
    (s.nextMove = .resetBlock → t.history = []) ∧
    (s.nextMove ≠ .resetBlock → ¬(s.Proceeds ∧ s.phase ≠ .idle) → t.history = s.history)

/-- 10_state.md R32, 70_reset_and_hazards.md R108, R109: reset from any state, in the middle of a command too: every piece of
block state at its reset value, STATUS 0, the port ready. -/
def Obligations.ResetClearsTheBlock : Prop :=
  ∀ s : State, s.params.Admitted → s.nextMove = .resetBlock →
    ∃ t, step s = .next t ∧ t.phase = .idle ∧ t.stepIx = 0 ∧ t.divisor = 0 ∧ t.txData = 0 ∧ t.configured = false ∧
      t.err = 0 ∧ t.history = [] ∧ t.status = 0 ∧ t.ready = true

/-- 70_reset_and_hazards.md R110: the Device carries over a reset. That the Host keeps its words and samples is the model's
choice, log 11. -/
def Obligations.ResetKeepsHostAndDevice : Prop :=
  ∀ s t : State, s.nextMove = .resetBlock → step s = .next t →
    t.device = s.device ∧ t.draws = s.draws ∧ t.params = s.params ∧ t.hostWords = s.hostWords ∧
    t.hostSamples = s.hostSamples ∧ t.agenda = s.agenda.tail

/-- 00_scope.md R11, 20_memory.md R42: a Device step changes the Device to any state and nothing of the block. -/
def Obligations.DeviceStepLeavesTheBlock : Prop :=
  ∀ (s : State) (d : Device), s.params.Admitted → s.nextMove = .deviceChange d →
    step s = .next { s with agenda := s.agenda.tail, device := d }

/-- 10_state.md R30, R35, 20_memory.md R42: outside POLL the block's step, and what can be observed of it, does not depend on
how the Device answers reads. -/
def Obligations.DeviceAnswersMatterOnlyInPoll : Prop :=
  ∀ (s t : State) (d : Device), s.phase ≠ .poll → s.device.stalled = d.stalled → step s = .next t →
    ∃ t', step { s with device := d } = .next t' ∧ SameBlock t t' ∧ t'.observe = t.observe ∧ t'.hostWords = t.hostWords ∧
      t'.hostSamples = t.hostSamples ∧ t'.agenda = t.agenda

/-- 10_state.md R25: of an LSR answer only the THRE test matters for the next state: two polls whose answers agree under the
test agree in everything but the recorded answer. -/
def Obligations.OtherLsrBitsAreIgnored : Prop :=
  ∀ s s' t t' : State, s.phase = .poll → SameBlock s s' → s'.params = s.params → s.Proceeds → s'.Proceeds →
    thre s.params (s.nthAnswer 0) = thre s.params (s'.nthAnswer 0) → step s = .next t → step s' = .next t' →
    t'.phase = t.phase ∧ t'.stepIx = t.stepIx ∧ t'.divisor = t.divisor ∧ t'.txData = t.txData ∧
    t'.configured = t.configured ∧ t'.err = t.err ∧ t'.status = t.status ∧
    t'.history.dropLast = t.history.dropLast

/-- 20_memory.md R40, 00_scope.md R7: a parameter set that fails any line of the check is refused, by every step and by every
command. -/
def Obligations.FailingParameterSetIsRefused : Prop :=
  ∀ (s : State) (i : Instr),
    (s.params.baseAddr % 4 ≠ 0 ∨ s.params.windowBytes % 4 ≠ 0 ∨ s.params.windowBytes < 4 ∨
     2 ^ s.params.addrW < s.params.baseAddr + s.params.windowBytes ∨
     (∃ off ∈ s.params.offsets, s.params.windowBytes / 4 ≤ off) ∨
     s.params.valLcr8n1 &&& s.params.valLcrDlab ≠ 0 ∨ s.params.valLcrDlab = 0) →
    step s = .refused .parametersNotAdmitted ∧ exec i s = .refused .parametersNotAdmitted

/-- 60_exceptions.md R92, R107: under an admitted parameter set every step and every command has a next state: nothing faults,
and nothing is refused. It rests on the model's readings: a command's meaning answers a state while BUSY (log 5); a ready port
without a word steps (log 6); a transaction the Device does not complete steps, where 20_memory.md R51 says the block has no step
(log 7); the last line of the check (log 8); no step faults (log 13). -/
def Obligations.AdmittedParameterSetAlwaysSteps : Prop :=
  ∀ (s : State) (i : Instr), s.params.Admitted → (∃ t, step s = .next t) ∧ ∃ t, exec i s = .next t

/-- 00_scope.md R6: no step and no command changes the parameter set. -/
def Obligations.ParametersAreFixed : Prop :=
  ∀ s t : State, step s = .next t → t.params = s.params

/-! ## Invariants and headlines -/

/-- The state invariant (60_exceptions.md R93, R95, 41_configuration.md R72, 10_state.md R20, R22) is kept by every step, from
every state that meets it. -/
def Obligations.StateInvariantKeptByEveryStep : Prop :=
  ∀ s t : State, s.Inv → step s = .next t → t.Inv

/-- The state invariant holds after reset, for every parameter set. -/
def Obligations.StateInvariantAtReset : Prop :=
  (∀ p : Params, (State.resetWith p).Inv) ∧ State.reset = State.resetWith Params.defaults

/-- 41_configuration.md R77, 42_transmit.md R89, R91, 30_encoding.md R59, R61, 60_exceptions.md R97: every step keeps the
state explained by the words accepted since reset: history, `configured` and `err` are what those words prescribe, each word
is accepted once and in order, and a reset starts anew. That a reset leaves the Host's words as they were, which says what is
accepted after it, is the model's choice, log 11; that waits and uncompleted transactions are steps is its reading, logs 6
and 7. -/
def Obligations.HistoryStaysExplainedByAcceptedWords : Prop :=
  ∀ (accepted : List Cmd) (s t : State), Explains accepted s → step s = .next t →
    ∃ accepted', Explains accepted' t ∧
      (s.nextMove = .resetBlock → accepted' = [] ∧ t.hostWords = s.hostWords) ∧
      (s.nextMove ≠ .resetBlock → accepted' ++ t.hostWords = accepted ++ s.hostWords)

/-- After reset nothing is accepted and the state is explained by no words. -/
def Obligations.ResetStateIsExplainedByNoWords : Prop :=
  ∀ p : Params, Explains [] (State.resetWith p)

/-- 70_reset_and_hazards.md R120: a program that ends has run, in order, exactly the commands its words prescribe: the
history is the concatenation of their whole traces and `err` is the first error, whatever the Device did and whatever
samples and Device steps came between. The agenda that says what came between is the model's form, log 1. -/
def Obligations.EndedProgramHasExactlyItsTraces : Prop :=
  ∀ (p : Params) (program : List Cmd) (moves : List Move) (d : Device) (draws n : Nat) (t : State),
    Move.resetBlock ∉ moves →
    runSteps n { State.resetWith p with hostWords := program, agenda := moves, device := d, draws := draws } = .next t →
    t.Ended →
    ∃ ended : List EndedCommand, (∀ c ∈ ended, c.Ok p) ∧ ended.map EndedCommand.instr = commandsOf false program ∧
      t.history = ended.flatMap (EndedCommand.trace p) ∧ t.err = firstErrorOf false program

/-- 70_reset_and_hazards.md R115: with LCR apart from the registers written after row 5, every step keeps that the last LCR
write is the 8N1 value from row 5 of a CONFIGURE on. -/
def Obligations.LcrInvariantKeptByEveryStep : Prop :=
  ∀ s t : State, LcrApart s.params → s.LcrInv → step s = .next t → t.LcrInv

/-- 70_reset_and_hazards.md R115, 00_scope.md R7: where THR is written, the block's last LCR write has DLAB clear; and the
invariant this rests on holds after reset. -/
def Obligations.ThrIsNeverWrittenWithDlabSet : Prop :=
  (∀ s : State, s.params.Admitted → s.LcrInv → s.phase = .tx →
    ∃ v, lastLcrWrite s.params s.history = some v ∧ v &&& s.params.valLcrDlab = 0) ∧
  (∀ p : Params, (State.resetWith p).LcrInv)

/-! ## Programs as text, and platforms -/

/-- 30_encoding.md R62 to R64: what the statements assemble to decodes to their commands, and an operand out of range is an
error, never truncated. -/
def Obligations.AssembledStatementsDecode : Prop :=
  (∀ clk : Nat, clk < 2 ^ 32 →
    ∃ w, (Stmt.configure clk).assemble = .ok [w] ∧ decode w = .ok (.configure (BitVec.ofNat 32 clk))) ∧
  (∃ w, Stmt.configureAbsent.assemble = .ok [w] ∧ decode w = .ok (.configure 0)) ∧
  (∀ b : Nat, b < 256 → ∃ w, (Stmt.send b).assemble = .ok [w] ∧ decode w = .ok (.send (BitVec.ofNat 8 b))) ∧
  (∀ w : Nat, w < 2 ^ 64 → (Stmt.cmd w).assemble = .ok [BitVec.ofNat 64 w]) ∧
  (∀ bytes : List Nat, (∀ b ∈ bytes, b < 256) →
    ∃ ws, (Stmt.sendStr bytes).assemble = .ok ws ∧
      ws.map decode = bytes.map fun b => Except.ok (Instr.send (BitVec.ofNat 8 b))) ∧
  (∀ t : Stmt, t.wellFormed = false → t.assemble = .error .outOfRange)

/-- 30_encoding.md R63: the line `SENDSTR "<text>"` of plain ASCII text (no quote, no backslash) assembles to one SEND per
character, in order. That a semicolon inside the quotes is text, where R62 says a `;` starts a comment, and that any other ASCII
character may stand unescaped, is the model's choice, log 12. The statement is about one line: a line feed would have ended it
before `assembleLine` (`splitLines`), so for such a text it says nothing of a program. -/
def Obligations.SendStrLineSendsEachCharacter : Prop :=
  ∀ text : List Char, (∀ c ∈ text, c.toNat < 128 ∧ c ≠ '"' ∧ c ≠ '\\') →
    assembleLine ("SENDSTR \"".toList ++ text ++ ['"']) =
      .ok (text.map fun c => encode (.send (BitVec.ofNat 8 c.toNat)))

/-- 60_exceptions.md R104: the blocks of a platform share no state: a step of one is its own step alone and leaves every other
block as it was. That overlapping windows are refused is the model's form, log 14. -/
def Obligations.BlocksOfAPlatformAreIndependent : Prop :=
  ∀ (i : Nat) (bs cs : Platform), Platform.step i bs = .next cs →
    cs.length = bs.length ∧ (∀ j, j ≠ i → cs[j]? = bs[j]?) ∧
    (∀ s, bs[i]? = some s → ∃ t, cs[i]? = some t ∧ step s = .next t)
end

