-- ==== Sys2Proof/Laws/Assembler.lean ====
section
/-! SUPPORT. The small lemmas of the assembler: how a `SENDSTR` text is read, character by character. -/

namespace Sys2Proof

theorem sendStrText_close (rest : List Char) : sendStrText ('"' :: rest) = some ([], rest) := by
  simp only [sendStrText]

/-- A plain ASCII character stands for its code (30_encoding.md R63). -/
theorem sendStrText_plain {c : Char} (hq : c ≠ '"') (hb : c ≠ '\\') (ha : c.toNat < 128) (rest : List Char) :
    sendStrText (c :: rest) = (sendStrText rest).map fun p => (c.toNat :: p.1, p.2) := by
  conv => lhs; unfold sendStrText
  split <;> simp_all [asciiCode]

end Sys2Proof
end

