-- ==== Sys2Proof/Laws/State.lean ====
section
/-! SUPPORT. One lemma per field and named update of State, so that no proof unfolds a record update. -/

namespace Sys2Proof.Machine

/-! ### the record of one bus event (20_memory.md R44) -/

@[simp] theorem State.appendEvent_params (s : State) (e : BusEvent) : (s.appendEvent e).params = s.params := rfl
@[simp] theorem State.appendEvent_phase (s : State) (e : BusEvent) : (s.appendEvent e).phase = s.phase := rfl
@[simp] theorem State.appendEvent_stepIx (s : State) (e : BusEvent) : (s.appendEvent e).stepIx = s.stepIx := rfl
@[simp] theorem State.appendEvent_divisor (s : State) (e : BusEvent) : (s.appendEvent e).divisor = s.divisor := rfl
@[simp] theorem State.appendEvent_txData (s : State) (e : BusEvent) : (s.appendEvent e).txData = s.txData := rfl
@[simp] theorem State.appendEvent_configured (s : State) (e : BusEvent) : (s.appendEvent e).configured = s.configured := rfl
@[simp] theorem State.appendEvent_err (s : State) (e : BusEvent) : (s.appendEvent e).err = s.err := rfl
@[simp] theorem State.appendEvent_history (s : State) (e : BusEvent) : (s.appendEvent e).history = s.history ++ [e] := rfl
@[simp] theorem State.appendEvent_hostWords (s : State) (e : BusEvent) : (s.appendEvent e).hostWords = s.hostWords := rfl
@[simp] theorem State.appendEvent_hostSamples (s : State) (e : BusEvent) : (s.appendEvent e).hostSamples = s.hostSamples := rfl
@[simp] theorem State.appendEvent_device (s : State) (e : BusEvent) : (s.appendEvent e).device = s.device := rfl
@[simp] theorem State.appendEvent_draws (s : State) (e : BusEvent) : (s.appendEvent e).draws = s.draws := rfl
@[simp] theorem State.appendEvent_agenda (s : State) (e : BusEvent) : (s.appendEvent e).agenda = s.agenda := rfl

/-! ### a write transaction (40_register_access.md R67) -/

@[simp] theorem mmioWrite32_params (off : Nat) (v : Word) (s : State) : (mmioWrite32 off v s).params = s.params := rfl
@[simp] theorem mmioWrite32_phase (off : Nat) (v : Word) (s : State) : (mmioWrite32 off v s).phase = s.phase := rfl
@[simp] theorem mmioWrite32_stepIx (off : Nat) (v : Word) (s : State) : (mmioWrite32 off v s).stepIx = s.stepIx := rfl
@[simp] theorem mmioWrite32_divisor (off : Nat) (v : Word) (s : State) : (mmioWrite32 off v s).divisor = s.divisor := rfl
@[simp] theorem mmioWrite32_txData (off : Nat) (v : Word) (s : State) : (mmioWrite32 off v s).txData = s.txData := rfl
@[simp] theorem mmioWrite32_configured (off : Nat) (v : Word) (s : State) : (mmioWrite32 off v s).configured = s.configured := rfl
@[simp] theorem mmioWrite32_err (off : Nat) (v : Word) (s : State) : (mmioWrite32 off v s).err = s.err := rfl
@[simp] theorem mmioWrite32_history (off : Nat) (v : Word) (s : State) : (mmioWrite32 off v s).history = s.history ++ [writeEvent s.params off v] := rfl
@[simp] theorem mmioWrite32_hostWords (off : Nat) (v : Word) (s : State) : (mmioWrite32 off v s).hostWords = s.hostWords := rfl
@[simp] theorem mmioWrite32_hostSamples (off : Nat) (v : Word) (s : State) : (mmioWrite32 off v s).hostSamples = s.hostSamples := rfl
@[simp] theorem mmioWrite32_device (off : Nat) (v : Word) (s : State) : (mmioWrite32 off v s).device = s.device := rfl
@[simp] theorem mmioWrite32_draws (off : Nat) (v : Word) (s : State) : (mmioWrite32 off v s).draws = s.draws := rfl
@[simp] theorem mmioWrite32_agenda (off : Nat) (v : Word) (s : State) : (mmioWrite32 off v s).agenda = s.agenda := rfl

/-! ### a read transaction (40_register_access.md R68) -/

@[simp] theorem mmioRead32_params (off : Nat) (s : State) : (mmioRead32 off s).2.params = s.params := rfl
@[simp] theorem mmioRead32_phase (off : Nat) (s : State) : (mmioRead32 off s).2.phase = s.phase := rfl
@[simp] theorem mmioRead32_stepIx (off : Nat) (s : State) : (mmioRead32 off s).2.stepIx = s.stepIx := rfl
@[simp] theorem mmioRead32_divisor (off : Nat) (s : State) : (mmioRead32 off s).2.divisor = s.divisor := rfl
@[simp] theorem mmioRead32_txData (off : Nat) (s : State) : (mmioRead32 off s).2.txData = s.txData := rfl
@[simp] theorem mmioRead32_configured (off : Nat) (s : State) : (mmioRead32 off s).2.configured = s.configured := rfl
@[simp] theorem mmioRead32_err (off : Nat) (s : State) : (mmioRead32 off s).2.err = s.err := rfl
@[simp] theorem mmioRead32_history (off : Nat) (s : State) : (mmioRead32 off s).2.history = s.history ++ [readEvent s.params off (s.deviceAnswer (s.params.addr off))] := rfl
@[simp] theorem mmioRead32_hostWords (off : Nat) (s : State) : (mmioRead32 off s).2.hostWords = s.hostWords := rfl
@[simp] theorem mmioRead32_hostSamples (off : Nat) (s : State) : (mmioRead32 off s).2.hostSamples = s.hostSamples := rfl
@[simp] theorem mmioRead32_device (off : Nat) (s : State) : (mmioRead32 off s).2.device = { s.device with answers := s.device.answers.tail } := rfl
@[simp] theorem mmioRead32_draws (off : Nat) (s : State) : (mmioRead32 off s).2.draws = s.draws + 1 := rfl
@[simp] theorem mmioRead32_agenda (off : Nat) (s : State) : (mmioRead32 off s).2.agenda = s.agenda := rfl

/-! ### RecordError (60_exceptions.md R97) -/

@[simp] theorem State.recordError_params (s : State) (c : CmdError) : (s.recordError c).params = s.params := by unfold State.recordError; split <;> rfl
@[simp] theorem State.recordError_phase (s : State) (c : CmdError) : (s.recordError c).phase = s.phase := by unfold State.recordError; split <;> rfl
@[simp] theorem State.recordError_stepIx (s : State) (c : CmdError) : (s.recordError c).stepIx = s.stepIx := by unfold State.recordError; split <;> rfl
@[simp] theorem State.recordError_divisor (s : State) (c : CmdError) : (s.recordError c).divisor = s.divisor := by unfold State.recordError; split <;> rfl
@[simp] theorem State.recordError_txData (s : State) (c : CmdError) : (s.recordError c).txData = s.txData := by unfold State.recordError; split <;> rfl
@[simp] theorem State.recordError_configured (s : State) (c : CmdError) : (s.recordError c).configured = s.configured := by unfold State.recordError; split <;> rfl
@[simp] theorem State.recordError_err (s : State) (c : CmdError) : (s.recordError c).err = if s.err = 0 then c.code else s.err := by unfold State.recordError; split <;> rfl
@[simp] theorem State.recordError_history (s : State) (c : CmdError) : (s.recordError c).history = s.history := by unfold State.recordError; split <;> rfl
@[simp] theorem State.recordError_hostWords (s : State) (c : CmdError) : (s.recordError c).hostWords = s.hostWords := by unfold State.recordError; split <;> rfl
@[simp] theorem State.recordError_hostSamples (s : State) (c : CmdError) : (s.recordError c).hostSamples = s.hostSamples := by unfold State.recordError; split <;> rfl
@[simp] theorem State.recordError_device (s : State) (c : CmdError) : (s.recordError c).device = s.device := by unfold State.recordError; split <;> rfl
@[simp] theorem State.recordError_draws (s : State) (c : CmdError) : (s.recordError c).draws = s.draws := by unfold State.recordError; split <;> rfl
@[simp] theorem State.recordError_agenda (s : State) (c : CmdError) : (s.recordError c).agenda = s.agenda := by unfold State.recordError; split <;> rfl

/-! ### reset of the block (70_reset_and_hazards.md R108) -/

@[simp] theorem State.resetBlock_params (s : State) : s.resetBlock.params = s.params := rfl
@[simp] theorem State.resetBlock_phase (s : State) : s.resetBlock.phase = .idle := rfl
@[simp] theorem State.resetBlock_stepIx (s : State) : s.resetBlock.stepIx = 0 := rfl
@[simp] theorem State.resetBlock_divisor (s : State) : s.resetBlock.divisor = 0 := rfl
@[simp] theorem State.resetBlock_txData (s : State) : s.resetBlock.txData = 0 := rfl
@[simp] theorem State.resetBlock_configured (s : State) : s.resetBlock.configured = false := rfl
@[simp] theorem State.resetBlock_err (s : State) : s.resetBlock.err = 0 := rfl
@[simp] theorem State.resetBlock_history (s : State) : s.resetBlock.history = [] := rfl
@[simp] theorem State.resetBlock_hostWords (s : State) : s.resetBlock.hostWords = s.hostWords := rfl
@[simp] theorem State.resetBlock_hostSamples (s : State) : s.resetBlock.hostSamples = s.hostSamples := rfl
@[simp] theorem State.resetBlock_device (s : State) : s.resetBlock.device = s.device := rfl
@[simp] theorem State.resetBlock_draws (s : State) : s.resetBlock.draws = s.draws := rfl
@[simp] theorem State.resetBlock_agenda (s : State) : s.resetBlock.agenda = s.agenda := rfl

/-! ### the acceptance of the word on the port (30_encoding.md R61) -/

@[simp] theorem State.popWord_params (s : State) : s.popWord.params = s.params := rfl
@[simp] theorem State.popWord_phase (s : State) : s.popWord.phase = s.phase := rfl
@[simp] theorem State.popWord_stepIx (s : State) : s.popWord.stepIx = s.stepIx := rfl
@[simp] theorem State.popWord_divisor (s : State) : s.popWord.divisor = s.divisor := rfl
@[simp] theorem State.popWord_txData (s : State) : s.popWord.txData = s.txData := rfl
@[simp] theorem State.popWord_configured (s : State) : s.popWord.configured = s.configured := rfl
@[simp] theorem State.popWord_err (s : State) : s.popWord.err = s.err := rfl
@[simp] theorem State.popWord_history (s : State) : s.popWord.history = s.history := rfl
@[simp] theorem State.popWord_hostWords (s : State) : s.popWord.hostWords = s.hostWords.tail := rfl
@[simp] theorem State.popWord_hostSamples (s : State) : s.popWord.hostSamples = s.hostSamples := rfl
@[simp] theorem State.popWord_device (s : State) : s.popWord.device = s.device := rfl
@[simp] theorem State.popWord_draws (s : State) : s.popWord.draws = s.draws := rfl
@[simp] theorem State.popWord_agenda (s : State) : s.popWord.agenda = s.agenda := rfl

/-! ### a move leaves the agenda (log 1) -/

@[simp] theorem State.popMove_params (s : State) : s.popMove.params = s.params := rfl
@[simp] theorem State.popMove_phase (s : State) : s.popMove.phase = s.phase := rfl
@[simp] theorem State.popMove_stepIx (s : State) : s.popMove.stepIx = s.stepIx := rfl
@[simp] theorem State.popMove_divisor (s : State) : s.popMove.divisor = s.divisor := rfl
@[simp] theorem State.popMove_txData (s : State) : s.popMove.txData = s.txData := rfl
@[simp] theorem State.popMove_configured (s : State) : s.popMove.configured = s.configured := rfl
@[simp] theorem State.popMove_err (s : State) : s.popMove.err = s.err := rfl
@[simp] theorem State.popMove_history (s : State) : s.popMove.history = s.history := rfl
@[simp] theorem State.popMove_hostWords (s : State) : s.popMove.hostWords = s.hostWords := rfl
@[simp] theorem State.popMove_hostSamples (s : State) : s.popMove.hostSamples = s.hostSamples := rfl
@[simp] theorem State.popMove_device (s : State) : s.popMove.device = s.device := rfl
@[simp] theorem State.popMove_draws (s : State) : s.popMove.draws = s.draws := rfl
@[simp] theorem State.popMove_agenda (s : State) : s.popMove.agenda = s.agenda.tail := rfl

/-! ### a STATUS sample (10_state.md R19) -/

@[simp] theorem State.sampleStatus_params (s : State) : s.sampleStatus.params = s.params := rfl
@[simp] theorem State.sampleStatus_phase (s : State) : s.sampleStatus.phase = s.phase := rfl
@[simp] theorem State.sampleStatus_stepIx (s : State) : s.sampleStatus.stepIx = s.stepIx := rfl
@[simp] theorem State.sampleStatus_divisor (s : State) : s.sampleStatus.divisor = s.divisor := rfl
@[simp] theorem State.sampleStatus_txData (s : State) : s.sampleStatus.txData = s.txData := rfl
@[simp] theorem State.sampleStatus_configured (s : State) : s.sampleStatus.configured = s.configured := rfl
@[simp] theorem State.sampleStatus_err (s : State) : s.sampleStatus.err = s.err := rfl
@[simp] theorem State.sampleStatus_history (s : State) : s.sampleStatus.history = s.history := rfl
@[simp] theorem State.sampleStatus_hostWords (s : State) : s.sampleStatus.hostWords = s.hostWords := rfl
@[simp] theorem State.sampleStatus_hostSamples (s : State) : s.sampleStatus.hostSamples = s.hostSamples ++ [s.status] := rfl
@[simp] theorem State.sampleStatus_device (s : State) : s.sampleStatus.device = s.device := rfl
@[simp] theorem State.sampleStatus_draws (s : State) : s.sampleStatus.draws = s.draws := rfl
@[simp] theorem State.sampleStatus_agenda (s : State) : s.sampleStatus.agenda = s.agenda := rfl

/-! ### ConfigureAccept (41_configuration.md R73) -/

@[simp] theorem configureAccept_params (clk : Word) (s : State) : (configureAccept clk s).params = s.params := rfl
@[simp] theorem configureAccept_phase (clk : Word) (s : State) : (configureAccept clk s).phase = .cfg := rfl
@[simp] theorem configureAccept_stepIx (clk : Word) (s : State) : (configureAccept clk s).stepIx = 0 := rfl
@[simp] theorem configureAccept_divisor (clk : Word) (s : State) : (configureAccept clk s).divisor = divisorOf clk := rfl
@[simp] theorem configureAccept_txData (clk : Word) (s : State) : (configureAccept clk s).txData = s.txData := rfl
@[simp] theorem configureAccept_configured (clk : Word) (s : State) : (configureAccept clk s).configured = s.configured := rfl
@[simp] theorem configureAccept_err (clk : Word) (s : State) : (configureAccept clk s).err = s.err := rfl
@[simp] theorem configureAccept_history (clk : Word) (s : State) : (configureAccept clk s).history = s.history := rfl
@[simp] theorem configureAccept_hostWords (clk : Word) (s : State) : (configureAccept clk s).hostWords = s.hostWords := rfl
@[simp] theorem configureAccept_hostSamples (clk : Word) (s : State) : (configureAccept clk s).hostSamples = s.hostSamples := rfl
@[simp] theorem configureAccept_device (clk : Word) (s : State) : (configureAccept clk s).device = s.device := rfl
@[simp] theorem configureAccept_draws (clk : Word) (s : State) : (configureAccept clk s).draws = s.draws := rfl
@[simp] theorem configureAccept_agenda (clk : Word) (s : State) : (configureAccept clk s).agenda = s.agenda := rfl

@[simp] theorem mmioRead32_fst (off : Nat) (s : State) :
    (mmioRead32 off s).1 = s.deviceAnswer (s.params.addr off) := rfl

end Sys2Proof.Machine
end

