-- ==== Sys2Proof/Laws/Ops.lean ====
section
/-! SUPPORT. Once for each shared operation, everything it can do; the proofs about commands and steps cite these instead of
unfolding them. -/

namespace Sys2Proof.Machine

/-! ### The flags -/

theorem ready_iff (s : State) : s.ready = true ↔ s.phase = .idle := by simp [State.ready]

theorem busy_eq (s : State) : s.busy = decide (s.phase ≠ .idle) := by simp [State.busy, State.ready]

theorem status_congr {s t : State} (hp : t.phase = s.phase) (hc : t.configured = s.configured) (he : t.err = s.err) :
    t.status = s.status := by simp [State.status, State.busy, State.ready, hp, hc, he]

/-- BUSY in STATUS, for every value of the other fields. -/
theorem status_bit_busy : ∀ (e : BitVec 4) (c b : Bool),
    ((e ++ (0 : BitVec 2) ++ BitVec.ofBool c ++ BitVec.ofBool b).setWidth 32).getLsbD 0 = b := by decide

theorem status_busy {s : State} (hp : s.phase ≠ .idle) : s.status.getLsbD 0 = true := by
  rw [State.status, status_bit_busy, busy_eq, decide_eq_true hp]

theorem recordError_of_none {s : State} (c : CmdError) (h : s.err = 0) : s.recordError c = { s with err := c.code } :=
  if_pos h

theorem recordError_of_recorded {s : State} (c : CmdError) (h : s.err ≠ 0) : s.recordError c = s := if_neg h

theorem recordError_eq (s : State) (c : CmdError) :
    s.recordError c = { s with err := if s.err = 0 then c.code else s.err } := by
  unfold State.recordError; split <;> rfl

theorem CmdError.code_ne_zero (c : CmdError) : c.code ≠ 0 := by cases c <;> decide

/-! ### The command port -/

/-- What the gate of the port answers, in full. -/
theorem whenReady_next {s t : State} {f : State → State} :
    whenReady s f = .next t ↔ s.params.Admitted ∧ t = if s.phase = .idle then f s else s := by
  unfold whenReady
  by_cases ha : s.params.Admitted
  · rw [if_pos ha, and_iff_right ha]
    by_cases hp : s.phase = .idle <;> simp only [State.ready, hp, decide_true, decide_false, if_true, if_false,
      Bool.false_eq_true, Host.Outcome.next.injEq, eq_comm]
  · rw [if_neg ha]
    exact ⟨nofun, fun h => absurd h.1 ha⟩

theorem whenReady_idle {s : State} (f : State → State) (ha : s.params.Admitted) (hp : s.phase = .idle) :
    whenReady s f = .next (f s) := whenReady_next.2 ⟨ha, by simp [hp]⟩

theorem whenReady_busy {s : State} (f : State → State) (ha : s.params.Admitted) (hp : s.phase ≠ .idle) :
    whenReady s f = .next s := whenReady_next.2 ⟨ha, by simp [hp]⟩

theorem whenReady_refused {s : State} (f : State → State) (ha : ¬s.params.Admitted) :
    whenReady s f = .refused .parametersNotAdmitted := if_neg ha

/-! ### SEND at acceptance -/

theorem sendAccept_configured {s : State} (b : Byte) (h : s.configured = true) :
    sendAccept b s = { s with txData := b, phase := .poll } := by simp [sendAccept, h]

theorem sendAccept_unconfigured {s : State} (b : Byte) (h : s.configured = false) :
    sendAccept b s = s.recordError .notConfigured := by simp [sendAccept, h]

/-! ### The Block steps -/

theorem cfgTable_length (p : Params) (d : Word) : (cfgTable p d).length = 8 := rfl

theorem cfgTable_getElem? (p : Params) (d : Word) (k : BitVec 3) :
    (cfgTable p d)[k.toNat]? = some (cfgRow p d k) := by
  exact List.getElem?_eq_getElem k.isLt

theorem cfgStep_last {s : State} (h : s.stepIx = 7) :
    cfgStep s = { mmioWrite32 s.params.offMdr s.params.valMdrExit s with configured := true, phase := .idle } := by
  simp only [cfgStep, h, if_true]; rfl

theorem cfgStep_inner {s : State} (h : s.stepIx ≠ 7) :
    cfgStep s = { mmioWrite32 (cfgRow s.params s.divisor s.stepIx).1 (cfgRow s.params s.divisor s.stepIx).2 s with
      stepIx := s.stepIx + 1 } := by
  simp only [cfgStep, if_neg h]

theorem pollStep_set {s : State} (h : thre s.params (s.deviceAnswer (s.params.addr s.params.offLsr)) = true) :
    pollStep s = { (mmioRead32 s.params.offLsr s).2 with phase := .tx } := by
  simp [pollStep, h]

theorem pollStep_clear {s : State} (h : thre s.params (s.deviceAnswer (s.params.addr s.params.offLsr)) = false) :
    pollStep s = (mmioRead32 s.params.offLsr s).2 := by
  simp [pollStep, h]

theorem blockStep_stalled {s : State} (h : s.device.stalled = true) : blockStep s = s := by simp [blockStep, h]

theorem blockStep_cfg {s : State} (h : s.device.stalled = false) (hp : s.phase = .cfg) : blockStep s = cfgStep s := by
  simp [blockStep, h, hp]

theorem blockStep_poll {s : State} (h : s.device.stalled = false) (hp : s.phase = .poll) : blockStep s = pollStep s := by
  simp [blockStep, h, hp]

theorem blockStep_tx {s : State} (h : s.device.stalled = false) (hp : s.phase = .tx) : blockStep s = txStep s := by
  simp [blockStep, h, hp]

/-- Everything a Block step can do. -/
theorem blockStep_cases (s : State) (hp : s.phase ≠ .idle) :
    (s.device.stalled = true ∧ blockStep s = s) ∨
    (s.device.stalled = false ∧ s.phase = .cfg ∧ s.stepIx ≠ 7 ∧
      blockStep s = { mmioWrite32 (cfgRow s.params s.divisor s.stepIx).1 (cfgRow s.params s.divisor s.stepIx).2 s with
        stepIx := s.stepIx + 1 }) ∨
    (s.device.stalled = false ∧ s.phase = .cfg ∧ s.stepIx = 7 ∧
      blockStep s = { mmioWrite32 s.params.offMdr s.params.valMdrExit s with configured := true, phase := .idle }) ∨
    (s.device.stalled = false ∧ s.phase = .poll ∧
      thre s.params (s.deviceAnswer (s.params.addr s.params.offLsr)) = false ∧
      blockStep s = (mmioRead32 s.params.offLsr s).2) ∨
    (s.device.stalled = false ∧ s.phase = .poll ∧
      thre s.params (s.deviceAnswer (s.params.addr s.params.offLsr)) = true ∧
      blockStep s = { (mmioRead32 s.params.offLsr s).2 with phase := .tx }) ∨
    (s.device.stalled = false ∧ s.phase = .tx ∧
      blockStep s = { mmioWrite32 s.params.offThr (zext32 s.txData) s with phase := .idle }) := by
  cases hd : s.device.stalled with
  | true => exact .inl ⟨rfl, blockStep_stalled hd⟩
  | false =>
    right
    cases hph : s.phase with
    | idle => exact absurd hph hp
    | cfg =>
      by_cases h7 : s.stepIx = 7
      · exact .inr (.inl ⟨rfl, rfl, h7, (blockStep_cfg hd hph).trans (cfgStep_last h7)⟩)
      · exact .inl ⟨rfl, rfl, h7, (blockStep_cfg hd hph).trans (cfgStep_inner h7)⟩
    | poll =>
      cases ht : thre s.params (s.deviceAnswer (s.params.addr s.params.offLsr)) with
      | false => exact .inr (.inr (.inl ⟨rfl, rfl, rfl, (blockStep_poll hd hph).trans (pollStep_clear ht)⟩))
      | true => exact .inr (.inr (.inr (.inl ⟨rfl, rfl, rfl, (blockStep_poll hd hph).trans (pollStep_set ht)⟩)))
    | tx => exact .inr (.inr (.inr (.inr ⟨rfl, rfl, blockStep_tx hd hph⟩)))

end Sys2Proof.Machine
end

