-- ==== Sys2Proof/Laws/PerInstr.lean ====
section
/-! SUPPORT. The value of a command's word and of its fields, and the statements made once per command. Family Fields: the
OPC and RSVD fields of a command's word (30_encoding.md R53, R54, R57). -/

namespace Sys2Proof

theorem append_toNat {m n : Nat} (hi : BitVec m) (lo : BitVec n) : (hi ++ lo).toNat = hi.toNat * 2 ^ n + lo.toNat := by
  rw [BitVec.toNat_append, Nat.shiftLeft_eq, Nat.mul_comm, ← Nat.two_pow_add_eq_or_of_lt lo.isLt]

theorem encode_configure_toNat (clk : Word) : (encode (.configure clk)).toNat = 2 ^ 56 + clk.toNat := by
  simp only [encode, opcConfigure]; rw [append_toNat]; simp

theorem encode_send_toNat (b : Byte) : (encode (.send b)).toNat = 2 * 2 ^ 56 + b.toNat := by
  simp only [encode, opcSend]; rw [append_toNat]; simp

theorem cmdOpc_toNat (w : Cmd) : (cmdOpc w).toNat = w.toNat / 2 ^ 56 := by
  have := w.isLt
  simp only [cmdOpc, BitVec.extractLsb'_toNat, Nat.shiftRight_eq_div_pow]; omega

theorem cmdRsvd_toNat (w : Cmd) : (cmdRsvd w).toNat = w.toNat / 2 ^ 32 % 2 ^ 24 := by
  simp only [cmdRsvd, BitVec.extractLsb'_toNat, Nat.shiftRight_eq_div_pow]

theorem cmdOperand_toNat (w : Cmd) : (cmdOperand w).toNat = w.toNat % 2 ^ 32 := by
  simp only [cmdOperand, BitVec.extractLsb'_toNat, Nat.shiftRight_zero]

theorem cmdOperandHi_toNat (w : Cmd) : (cmdOperandHi w).toNat = w.toNat / 2 ^ 8 % 2 ^ 24 := by
  simp only [cmdOperandHi, BitVec.extractLsb'_toNat, Nat.shiftRight_eq_div_pow]

theorem cmdByte_toNat (w : Cmd) : (cmdByte w).toNat = w.toNat % 2 ^ 8 := by
  simp only [cmdByte, BitVec.extractLsb'_toNat, Nat.shiftRight_zero]

/-- The opcode of a command (30_encoding.md R54). -/
def Laws.opcodeOf : Instr → BitVec 8
  | .configure _ => 0x01
  | .send _ => 0x02

/-- The word of `i` has its opcode in OPC and zero in RSVD. -/
def Laws.Fields.Statement (i : Instr) : Prop := cmdOpc (encode i) = Laws.opcodeOf i ∧ cmdRsvd (encode i) = 0

theorem Laws.Fields.configure (clk : Word) : Laws.Fields.Statement (.configure clk) := by
  have := clk.isLt
  constructor <;> apply BitVec.eq_of_toNat_eq
  · rw [cmdOpc_toNat, encode_configure_toNat]; simp only [Laws.opcodeOf, BitVec.reduceToNat]; omega
  · rw [cmdRsvd_toNat, encode_configure_toNat]; simp only [BitVec.reduceToNat]; omega

theorem Laws.Fields.send (b : Byte) : Laws.Fields.Statement (.send b) := by
  have := b.isLt
  constructor <;> apply BitVec.eq_of_toNat_eq
  · rw [cmdOpc_toNat, encode_send_toNat]; simp only [Laws.opcodeOf, BitVec.reduceToNat]; omega
  · rw [cmdRsvd_toNat, encode_send_toNat]; simp only [BitVec.reduceToNat]; omega

end Sys2Proof
end

