-- ==== Sys2Proof/Laws/Step.lean ====
section
/-! SUPPORT. What the acceptance of a word and one step can do, said once. -/

namespace Sys2Proof.Machine

/-- The acceptance of a word on a ready port, by what the word decodes to. -/
theorem acceptWord_eq (w : Cmd) {s : State} (ha : s.params.Admitted) (hp : s.phase = .idle) :
    acceptWord w s = .next (match decode w with
      | .error _ => s.recordError .illegalCommand
      | .ok (.configure clk) => configureAccept clk s
      | .ok (.send b) => sendAccept b s) := by
  unfold acceptWord
  cases hd : decode w with
  | error e => exact whenReady_idle _ ha hp
  | ok i => cases i with
    | configure clk => exact whenReady_idle _ ha hp
    | send b => exact whenReady_idle _ ha hp

/-- Everything the acceptance of a word on a ready port can do. -/
theorem acceptWord_cases {w : Cmd} {s t : State} (ha : s.params.Admitted) (hp : s.phase = .idle)
    (h : acceptWord w s = .next t) :
    (∃ e, decode w = .error e ∧ t = s.recordError .illegalCommand) ∨
    (∃ clk, decode w = .ok (.configure clk) ∧ t = configureAccept clk s) ∨
    (∃ b, decode w = .ok (.send b) ∧ s.configured = false ∧ t = s.recordError .notConfigured) ∨
    (∃ b, decode w = .ok (.send b) ∧ s.configured = true ∧ t = { s with txData := b, phase := .poll }) := by
  rw [acceptWord_eq w ha hp] at h
  injection h with h
  cases hd : decode w with
  | error e => simp only [hd] at h; exact .inl ⟨e, rfl, h.symm⟩
  | ok i => cases i with
    | configure clk => simp only [hd] at h; exact .inr (.inl ⟨clk, rfl, h.symm⟩)
    | send b =>
      simp only [hd] at h
      by_cases hc : s.configured = true
      · exact .inr (.inr (.inr ⟨b, rfl, hc, h.symm.trans (sendAccept_configured b hc)⟩))
      · have hc := eq_false_of_ne_true hc
        exact .inr (.inr (.inl ⟨b, rfl, hc, h.symm.trans (sendAccept_unconfigured b hc)⟩))

theorem step_refused {s : State} (ha : ¬s.params.Admitted) : step s = .refused .parametersNotAdmitted := if_neg ha

theorem step_move {s : State} (ha : s.params.Admitted) : step s = makeMove s.nextMove s.popMove := if_pos ha

theorem step_reset {s : State} (ha : s.params.Admitted) (hm : s.nextMove = .resetBlock) :
    step s = .next s.popMove.resetBlock := by rw [step_move ha, hm]; rfl

theorem step_device {s : State} {d : Device} (ha : s.params.Admitted) (hm : s.nextMove = .deviceChange d) :
    step s = .next { s.popMove with device := d } := by rw [step_move ha, hm]; rfl

theorem step_sample {s : State} (ha : s.params.Admitted) (hm : s.nextMove = .sampleStatus) :
    step s = .next s.popMove.sampleStatus := by rw [step_move ha, hm]; rfl

theorem step_wait {s : State} (ha : s.params.Admitted) (hm : s.nextMove = .proceed) (hp : s.phase = .idle)
    (hw : s.hostWords = []) : step s = .next s.popMove := by
  rw [step_move ha, hm]; simp [makeMove, proceed, State.ready, hp, hostStep, hw]

theorem step_accept {s : State} {w : Cmd} {ws : List Cmd} (ha : s.params.Admitted) (hm : s.nextMove = .proceed)
    (hp : s.phase = .idle) (hw : s.hostWords = w :: ws) : step s = acceptWord w s.popMove.popWord := by
  rw [step_move ha, hm]; simp [makeMove, proceed, State.ready, hp, hostStep, hw]

theorem step_block {s : State} (ha : s.params.Admitted) (hm : s.nextMove = .proceed) (hp : s.phase ≠ .idle) :
    step s = .next (blockStep s.popMove) := by
  rw [step_move ha, hm]; simp [makeMove, proceed, State.ready, hp]

/-- Everything a step can do. -/
theorem step_cases {s t : State} (h : step s = .next t) :
    s.params.Admitted ∧
    ((s.nextMove = .resetBlock ∧ t = s.popMove.resetBlock) ∨
     (∃ d, s.nextMove = .deviceChange d ∧ t = { s.popMove with device := d }) ∨
     (s.nextMove = .sampleStatus ∧ t = s.popMove.sampleStatus) ∨
     (s.nextMove = .proceed ∧ s.phase = .idle ∧ s.hostWords = [] ∧ t = s.popMove) ∨
     (s.nextMove = .proceed ∧ s.phase = .idle ∧
       ∃ w ws, s.hostWords = w :: ws ∧ acceptWord w s.popMove.popWord = .next t) ∨
     (s.nextMove = .proceed ∧ s.phase ≠ .idle ∧ t = blockStep s.popMove)) := by
  by_cases ha : s.params.Admitted
  · refine ⟨ha, ?_⟩
    cases hm : s.nextMove with
    | resetBlock => rw [step_reset ha hm] at h; injection h with h; exact .inl ⟨rfl, h.symm⟩
    | deviceChange d => rw [step_device ha hm] at h; injection h with h; exact .inr (.inl ⟨d, rfl, h.symm⟩)
    | sampleStatus => rw [step_sample ha hm] at h; injection h with h; exact .inr (.inr (.inl ⟨rfl, h.symm⟩))
    | proceed =>
      right; right; right
      by_cases hp : s.phase = .idle
      · cases hw : s.hostWords with
        | nil => rw [step_wait ha hm hp hw] at h; injection h with h; exact .inl ⟨rfl, hp, rfl, h.symm⟩
        | cons w ws => rw [step_accept ha hm hp hw] at h; exact .inr (.inl ⟨rfl, hp, w, ws, rfl, h⟩)
      · rw [step_block ha hm hp] at h; injection h with h; exact .inr (.inr ⟨rfl, hp, h.symm⟩)
  · rw [step_refused ha] at h; nomatch h

end Sys2Proof.Machine
end

