-- ==== Sys2Proof/Laws/Safety.lean ====
section
/-! SUPPORT. The small lemmas of the vocabulary of Safety.lean. -/

namespace Sys2Proof.Machine

/-! ### Commands and errors of a list of words -/

theorem commandsOf_error {w : Cmd} {e : DecodeError} (h : decode w = .error e) (c : Bool) (ws : List Cmd) :
    commandsOf c (w :: ws) = commandsOf c ws := by simp only [commandsOf.eq_2, h]

theorem commandsOf_configure {w : Cmd} {clk : Word} (h : decode w = .ok (.configure clk)) (c : Bool) (ws : List Cmd) :
    commandsOf c (w :: ws) = .configure clk :: commandsOf true ws := by simp only [commandsOf.eq_2, h]

theorem commandsOf_send {w : Cmd} {b : Byte} (h : decode w = .ok (.send b)) (ws : List Cmd) :
    commandsOf true (w :: ws) = .send b :: commandsOf true ws := by simp only [commandsOf.eq_2, h, if_true]

theorem commandsOf_unconfigured {w : Cmd} {b : Byte} (h : decode w = .ok (.send b)) (ws : List Cmd) :
    commandsOf false (w :: ws) = commandsOf false ws := by
  simp only [commandsOf.eq_2, h, Bool.false_eq_true, if_false]

theorem firstErrorOf_error {w : Cmd} {e : DecodeError} (h : decode w = .error e) (c : Bool) (ws : List Cmd) :
    firstErrorOf c (w :: ws) = 1 := by simp only [firstErrorOf.eq_2, h]

theorem firstErrorOf_configure {w : Cmd} {clk : Word} (h : decode w = .ok (.configure clk)) (c : Bool) (ws : List Cmd) :
    firstErrorOf c (w :: ws) = firstErrorOf true ws := by simp only [firstErrorOf.eq_2, h]

theorem firstErrorOf_send {w : Cmd} {b : Byte} (h : decode w = .ok (.send b)) (ws : List Cmd) :
    firstErrorOf true (w :: ws) = firstErrorOf true ws := by simp only [firstErrorOf.eq_2, h, if_true]

theorem firstErrorOf_unconfigured {w : Cmd} {b : Byte} (h : decode w = .ok (.send b)) (ws : List Cmd) :
    firstErrorOf false (w :: ws) = 2 := by simp only [firstErrorOf.eq_2, h, Bool.false_eq_true, if_false]

/-! ### Events, traces and runs -/

theorem lastLcrWrite_append_lcr {p : Params} {e : BusEvent} (history : List BusEvent) (hk : e.kind = .write)
    (ho : e.off = p.offLcr) : lastLcrWrite p (history ++ [e]) = some e.value := by simp [lastLcrWrite, hk, ho]

theorem lastLcrWrite_append_other {p : Params} {e : BusEvent} (history : List BusEvent)
    (h : ¬(e.kind = .write ∧ e.off = p.offLcr)) : lastLcrWrite p (history ++ [e]) = lastLcrWrite p history := by
  simp [lastLcrWrite, h]

theorem cfgRow_fst_mem_offsets (p : Params) (d : Word) (k : BitVec 3) : (cfgRow p d k).1 ∈ p.offsets := by
  have h : cfgRow p d k ∈ cfgTable p d := List.getElem_mem _
  simp only [cfgTable, List.mem_cons, List.not_mem_nil, or_false] at h
  rcases h with h | h | h | h | h | h | h | h <;> rw [h] <;> simp [Params.offsets]

/-- The rows from `k` on are row `k` and then those from `k + 1` on. -/
theorem drop_cfgTable (p : Params) (d : Word) (k : BitVec 3) :
    (cfgTable p d).drop k.toNat = cfgRow p d k :: (cfgTable p d).drop (k.toNat + 1) :=
  List.drop_eq_getElem_cons k.isLt

/-- The rows up to `k` are those before it and then row `k`. -/
theorem take_cfgTable_succ (p : Params) (d : Word) (k : BitVec 3) :
    (cfgTable p d).take (k.toNat + 1) = (cfgTable p d).take k.toNat ++ [cfgRow p d k] :=
  (List.take_append_getElem k.isLt).symm

@[simp] theorem pollTrace_nil (p : Params) : pollTrace p [] = [] := rfl

@[simp] theorem pollTrace_cons (p : Params) (r : Word) (rs : List Word) :
    pollTrace p (r :: rs) = readEvent p p.offLsr r :: pollTrace p rs := rfl

@[simp] theorem pollTrace_append (p : Params) (rs qs : List Word) :
    pollTrace p (rs ++ qs) = pollTrace p rs ++ pollTrace p qs := List.map_append

theorem runSteps_succ {s t : State} (n : Nat) (h : step s = .next t) : runSteps (n + 1) s = runSteps n t := by
  simp only [runSteps, h]

/-! ### The command in progress, phase by phase -/

theorem inProgress_idle {s : State} (hp : s.phase = .idle) (events : List BusEvent) (cmds : List Instr) :
    InProgress s events cmds ↔ events = [] ∧ cmds = [] := by simp only [InProgress, hp]

theorem inProgress_cfg {s : State} (hp : s.phase = .cfg) (events : List BusEvent) (cmds : List Instr) :
    InProgress s events cmds ↔ ∃ clk, s.divisor = divisorOf clk ∧ cmds = [.configure clk] ∧
      events = (configureTrace s.params clk).take s.stepIx.toNat := by simp only [InProgress, hp]

theorem inProgress_poll {s : State} (hp : s.phase = .poll) (events : List BusEvent) (cmds : List Instr) :
    InProgress s events cmds ↔ ∃ clear, (∀ r ∈ clear, thre s.params r = false) ∧ cmds = [.send s.txData] ∧
      events = pollTrace s.params clear := by simp only [InProgress, hp]

theorem inProgress_tx {s : State} (hp : s.phase = .tx) (events : List BusEvent) (cmds : List Instr) :
    InProgress s events cmds ↔ ∃ clear last, (∀ r ∈ clear, thre s.params r = false) ∧ thre s.params last = true ∧
      cmds = [.send s.txData] ∧ events = pollTrace s.params (clear ++ [last]) := by simp only [InProgress, hp]

/-- The state is explained by the same words when nothing of the block and no parameter has changed. -/
theorem Explains.congr {accepted : List Cmd} {s t : State} (h : Explains accepted s) (hp : t.params = s.params)
    (hb : SameBlock s t) : Explains accepted t := by
  obtain ⟨ended, events, cmds, hok, hin, hhist, hcmds, hconf, herr⟩ := h
  obtain ⟨b1, b2, b3, b4, b5, b6, b7⟩ := hb
  refine ⟨ended, events, cmds, by rw [hp]; exact hok, ?_, by rw [hp, b7]; exact hhist, hcmds, by rw [b5]; exact hconf,
    by rw [b6]; exact herr⟩
  unfold InProgress at *
  rw [b1, b2, b3, b4, hp]
  exact hin

end Sys2Proof.Machine
end

