-- ==== Sys2Proof/Tests/Slice0.lean ====
section
/-! SUPPORT. Small tests, their expected results from 95_test_vectors.md, 30_encoding.md and 40_register_access.md; the smoke
tests of the checks; and for each statement with hypotheses a witness that meets them. -/

namespace Sys2Proof.Tests

open Sys2Proof Sys2Proof.Machine

/-! ## Helpers -/

/-- The next state of an outcome. -/
def nextOf (o : Host.Outcome State Fault Refusal) : Option State :=
  match o with
  | .next t => some t
  | .fault _ => none
  | .refused _ => none

/-- Whether an outcome is the refusal of the parameter set. -/
def isRefused (o : Host.Outcome State Fault Refusal) : Bool :=
  match o with
  | .refused .parametersNotAdmitted => true
  | _ => false

theorem next_of_nextOf {o : Host.Outcome State Fault Refusal} {t : State} (h : nextOf o = some t) : o = .next t := by
  cases o with
  | next s => simpa [nextOf] using h
  | fault f => nomatch f
  | refused r => simp [nextOf] at h

/-- A block that is IDLE with `w` on its port. -/
def idleWith (w : Cmd) : State := { State.reset with hostWords := [w] }

/-- The same after `CONFIGURE 1843200` has ended. -/
def readyWith (w : Cmd) : State := { idleWith w with configured := true, stepIx := 7, divisor := 1 }

/-- In CONFIGURE with divisor 0x91A, row `k` next. -/
def inRow (k : BitVec 3) : State := { State.reset with phase := .cfg, stepIx := k, divisor := 0x91A }

/-- A configured block that polls for the byte `b`, the Device answering `answers`. -/
def polling (b : Byte) (answers : List Word) : State :=
  { State.reset with
    phase := .poll, stepIx := 7, divisor := 1, configured := true, txData := b,
    device := { answers := answers, steady := none, stalled := false } }

/-- A configured block about to write the byte `b`. -/
def sending (b : Byte) : State :=
  { State.reset with phase := .tx, stepIx := 7, divisor := 1, configured := true, txData := b }

/-! ## Decoding: words written out from 30_encoding.md R53 to R56 -/

/-- OPC 00000001, RSVD zero, OPERAND 0000_0010_1101_1100_0110_1100_0000_0000 = 48000000. -/
theorem test_decode_configure :
    decode 0b0000000100000000000000000000000000000010110111000110110000000000 = .ok (.configure 48000000) := by decide

/-- OPC 00000010, RSVD and OPERAND[31:8] zero, OPERAND[7:0] 0110_1000 = 'h'. -/
theorem test_decode_send :
    decode 0b0000001000000000000000000000000000000000000000000000000001101000 = .ok (.send 0x68) := by decide

theorem test_decode_reserved_bit_32 : decode 0x0100000100000000 = .error .reservedBits := by decide
theorem test_decode_reserved_bit_55 : decode 0x0180000000000000 = .error .reservedBits := by decide
theorem test_decode_reserved_checked_first : decode 0x0300000100000041 = .error .reservedBits := by decide
theorem test_decode_opcode_zero : decode 0 = .error .reservedOpcode := by decide
theorem test_decode_opcode_81 : decode 0x8100000000000000 = .error .reservedOpcode := by decide
theorem test_decode_opcode_ff : decode 0xFF000000FFFFFFFF = .error .reservedOpcode := by decide
theorem test_decode_send_bit_8 : decode 0x0200000000000100 = .error .sendOperandHigh := by decide
theorem test_table_word : decodeTableWord 64 0x0200000000000041 = some (.send 0x41) := by decide
theorem test_table_word_short : decodeTableWord 65 0x0200000000000041 = none := by decide

/-! ## Well-formedness: an ill-formed term for each check -/

theorem test_stmt_configure_too_big : (Stmt.configure 4294967296).wellFormed = false := by decide
theorem test_stmt_send_too_big : (Stmt.send 256).wellFormed = false := by decide
theorem test_stmt_cmd_too_big : (Stmt.cmd 0x10000000000000000).wellFormed = false := by decide
theorem test_stmt_sendStr_too_big : (Stmt.sendStr [65, 256]).wellFormed = false := by decide
theorem test_instr_well_formed : (Instr.send 0xFF).wellFormed = true := by decide

theorem test_params_defaults : Params.defaults.Admitted := by decide
theorem test_params_misaligned : ¬({ Params.defaults with baseAddr := 0x10000002 } : Params).Admitted := by decide
theorem test_params_window_misaligned : ¬({ Params.defaults with windowBytes := 0x1002 } : Params).Admitted := by decide
theorem test_params_window_empty : ¬({ Params.defaults with windowBytes := 0 } : Params).Admitted := by decide
theorem test_params_past_the_top : ¬({ Params.defaults with baseAddr := 0xFFFFF004 } : Params).Admitted := by decide
theorem test_params_at_the_top : ({ Params.defaults with baseAddr := 0xFFFFF000 } : Params).Admitted := by decide
theorem test_params_offset_outside : ¬({ Params.defaults with windowBytes := 0x20 } : Params).Admitted := by decide
theorem test_params_offset_last_inside : ({ Params.defaults with windowBytes := 0x24 } : Params).Admitted := by decide
theorem test_params_8n1_sets_dlab : ¬({ Params.defaults with valLcr8n1 := 0x83 } : Params).Admitted := by decide
theorem test_params_dlab_zero : ¬({ Params.defaults with valLcrDlab := 0 } : Params).Admitted := by decide
theorem test_params_window_too_wide :
    ¬({ Params.defaults with baseAddr := 0, windowBytes := 0x100000000 } : Params).Admitted := by decide

/-! ## Values -/

theorem test_divisor_truncates : divisorOf 3686399 = 1 := by decide
theorem test_divisor_max : divisorOf 0xFFFFFFFF = 2330 := by decide
theorem test_divisor_bytes : dllVal 2330 = 0x1A ∧ dlmVal 2330 = 0x09 := by decide
theorem test_addr_mdr_at_the_top : ({ Params.defaults with baseAddr := 0xFFFFF000 } : Params).addr 8 = 0xFFFFF020 := by
  decide
theorem test_phase_codes : [Phase.idle, .cfg, .poll, .tx].map Phase.code = [0, 1, 2, 3] := by decide
theorem test_status_configured_err : { readyWith 0 with err := 1 }.status = 0x12 := by decide
theorem test_status_polling : (polling 0x41 []).status = 0x03 := by decide

/-! ## Steps -/

theorem test_configure_accepted :
    (nextOf (step (idleWith 0x01000000001C2000))).map (fun t => (t.phase, t.stepIx, t.divisor, t.status)) =
      some (.cfg, 0, 1, 0x00000001) := by decide
theorem test_configure_row_3 :
    (nextOf (step (inRow 3))).map (fun t => (t.stepIx, t.history)) =
      some (4, [⟨.write, 0, 0x10000000, 0x0000001A⟩]) := by decide
theorem test_configure_row_7 :
    (nextOf (step (inRow 7))).map (fun t => (t.phase, t.stepIx, t.configured, t.history)) =
      some (.idle, 7, true, [⟨.write, 8, 0x10000020, 0x00000000⟩]) := by decide
theorem test_send_accepted :
    (nextOf (step (readyWith 0x0200000000000041))).map (fun t => (t.phase, t.txData, t.err, t.hostWords)) =
      some (.poll, 0x41, 0, []) := by decide
theorem test_send_not_configured :
    (nextOf (step (idleWith 0x0200000000000041))).map (fun t => (t.phase, t.err, t.status, t.history)) =
      some (.idle, 2, 0x20, []) := by decide
theorem test_illegal_before_not_configured :
    (nextOf (step (idleWith 0x0200000000000100))).map (fun t => (t.phase, t.err)) = some (.idle, 1) := by decide
theorem test_first_error_kept :
    (nextOf (step { idleWith 0x0300000000000000 with err := 2 })).map State.err = some 2 := by decide
theorem test_poll_all_but_thre :
    (nextOf (step (polling 0x80 [0xFFFFFFDF, 0x20]))).map (fun t => (t.phase, t.history)) =
      some (.poll, [⟨.read, 5, 0x10000014, 0xFFFFFFDF⟩]) := by decide
theorem test_poll_thre :
    (nextOf (step (polling 0x80 [0x20]))).map (fun t => (t.phase, t.history)) =
      some (.tx, [⟨.read, 5, 0x10000014, 0x20⟩]) := by decide
theorem test_tx_zero_extends :
    (nextOf (step (sending 0xFF))).map (fun t => (t.phase, t.history)) =
      some (.idle, [⟨.write, 0, 0x10000000, 0x000000FF⟩]) := by decide
theorem test_reset_in_configure :
    (nextOf (step { inRow 3 with configured := true, agenda := [.resetBlock] })).map
      (fun t => (t.phase, t.stepIx, t.divisor, t.configured, t.status)) = some (.idle, 0, 0, false, 0) := by decide
theorem test_sample_while_polling :
    (nextOf (step { polling 0x41 [] with agenda := [.sampleStatus] })).map State.hostSamples = some [0x03] := by decide
theorem test_misaligned_base_refused :
    isRefused (step { State.reset with params := { Params.defaults with baseAddr := 0x10000002 } }) = true := by decide
theorem test_fetch_word_runs :
    nextOf (step (State.reset.withFetchWord 64 0x0100000000000000)) =
      some { State.reset with phase := .cfg } := by decide

/-! ## The assembler: 30_encoding.md R62 to R64 and the programs of 95_test_vectors.md -/

theorem test_assemble_p1 :
    (assemble "CONFIGURE 48000000    ; 0x0100000002DC6C00\nSEND 'h'\n").toOption =
      some [0x0100000002DC6C00, 0x0200000000000068] := by decide
theorem test_assemble_p3 :
    (assemble ".cmd 0x0300000000000000   ; reserved\nSENDSTR \"ok\" ; two").toOption =
      some [0x0300000000000000, 0x020000000000006F, 0x020000000000006B] := by decide
theorem test_assemble_absent_clock : (assemble "CONFIGURE").toOption = some [0x0100000000000000] := by decide
theorem test_assemble_escapes :
    (assemble "SENDSTR \"\\n\\x41\\\"\"").toOption =
      some [0x020000000000000A, 0x0200000000000041, 0x0200000000000022] := by decide
theorem test_assemble_empty_text : (assemble "SENDSTR \"\"").toOption = some [] := by decide
theorem test_assemble_out_of_range : (assemble "SEND 256").toOption = none := by decide
theorem test_assemble_unknown : (assemble "RECV").toOption = none := by decide

/-! ## A platform of two blocks (60_exceptions.md R104) -/

def twoBlocks : Platform :=
  [idleWith 0x0100000000000000, State.resetWith { Params.defaults with baseAddr := 0x20000000 }]

theorem test_platform_apart : twoBlocks.Disjoint := by decide
theorem test_platform_overlap : ¬Platform.Disjoint [State.reset, State.reset] := by decide

/-! ## Witnesses: concrete inputs that meet the hypotheses of the statements, all together -/

theorem witness_DecodeOfEncodeIsTheCommand : (Instr.configure 0xFFFFFFFF).wellFormed = true := by decide
theorem witness_EncodeOfDecodeIsTheWord : decode 0x02000000000000FF = .ok (.send 0xFF) := by decide
theorem witness_FetchedWordIsRunNext : State.reset.params.Admitted ∧ (Instr.send 0).wellFormed = true := by decide
theorem witness_StepRunsTheDecodedCommand :
    (idleWith 0x0200000000000041).params.Admitted ∧ (idleWith 0x0200000000000041).nextMove = .proceed ∧
    (idleWith 0x0200000000000041).phase = .idle ∧ (idleWith 0x0200000000000041).hostWords = [0x0200000000000041] ∧
    decode 0x0200000000000041 = .ok (.send 0x41) ∧ (Instr.send 0x41).wellFormed = true := by decide
theorem witness_HostStepIsAcceptPseudocode :
    (idleWith 0).params.Admitted ∧ (idleWith 0).nextMove = .proceed ∧ (idleWith 0).phase = .idle ∧
    (idleWith 0).hostWords = [0] := by decide
theorem witness_IllegalWordOnlyRecordsIllegalCommand :
    (idleWith 0x0300000000000000).params.Admitted ∧ (idleWith 0x0300000000000000).nextMove = .proceed ∧
    (idleWith 0x0300000000000000).phase = .idle ∧ (idleWith 0x0300000000000000).hostWords = [0x0300000000000000] ∧
    IllegalWord 0x0300000000000000 := ⟨by decide, by decide, by decide, by decide, .inl (.inr (by decide))⟩
/-- Both clauses: a word is taken from a ready port, and held while the block polls. -/
theorem witness_WordsAreAcceptedOnceInOrder :
    (∃ t, step (idleWith 0) = .next t ∧ (idleWith 0).nextMove = .proceed ∧ (idleWith 0).phase = .idle) ∧
    (∃ t, step (sending 0) = .next t ∧ ¬((sending 0).nextMove = .proceed ∧ (sending 0).phase = .idle)) :=
  ⟨⟨_, rfl, by decide, by decide⟩, ⟨_, rfl, by decide⟩⟩
theorem witness_CommandWhileBusyWaits :
    (sending 0).phase ≠ .idle ∧ (sending 0).nextMove ≠ .resetBlock ∧ ∃ t, step (sending 0) = .next t :=
  ⟨by decide, by decide, _, rfl⟩
theorem witness_CommandMeaningWaitsWhileBusy : (sending 0).params.Admitted ∧ (sending 0).phase ≠ .idle := by decide
theorem witness_ReadyPortWithoutWordWaits :
    State.reset.params.Admitted ∧ State.reset.nextMove = .proceed ∧ State.reset.phase = .idle ∧
    State.reset.hostWords = [] := by decide
theorem witness_ConfigureAcceptanceLatchesDivisor : State.reset.params.Admitted ∧ State.reset.phase = .idle := by decide
theorem witness_SendAcceptanceLatchesByte :
    (readyWith 0).params.Admitted ∧ (readyWith 0).phase = .idle ∧ (readyWith 0).configured = true := by decide
theorem witness_UnconfiguredSendOnlyRecordsNotConfigured :
    State.reset.params.Admitted ∧ State.reset.phase = .idle ∧ State.reset.configured = false := by decide
theorem witness_ConfigureFrame :
    (∃ t, exec (.configure 1843200) State.reset = .next t) ∧
    (∃ t, exec (.configure 1843200) (sending 0) = .next t ∧ (sending 0).phase ≠ .idle) :=
  ⟨⟨_, rfl⟩, ⟨_, rfl, by decide⟩⟩
theorem witness_SendFrame :
    (∃ t, exec (.send 0xFF) (readyWith 0) = .next t ∧ (readyWith 0).configured = true) ∧
    (∃ t, exec (.send 0xFF) State.reset = .next t ∧ State.reset.configured = false) ∧
    (∃ t, exec (.send 0xFF) (sending 0) = .next t ∧ (sending 0).phase ≠ .idle) :=
  ⟨⟨_, rfl, by decide⟩, ⟨_, rfl, by decide⟩, ⟨_, rfl, by decide⟩⟩
theorem witness_CfgStepWritesItsRow :
    ((inRow 0).params.Admitted ∧ (inRow 0).Proceeds ∧ (inRow 0).phase = .cfg) ∧
    ((inRow 7).params.Admitted ∧ (inRow 7).Proceeds ∧ (inRow 7).phase = .cfg) := by decide
theorem witness_PollStepReadsLsrOnce :
    (polling 0 [0x20]).params.Admitted ∧ (polling 0 [0x20]).Proceeds ∧ (polling 0 [0x20]).phase = .poll := by decide
theorem witness_TxStepWritesThr :
    (sending 0xFF).params.Admitted ∧ (sending 0xFF).Proceeds ∧ (sending 0xFF).phase = .tx := by decide

def stuckInRow : State := { inRow 0 with device := { answers := [], steady := none, stalled := true } }

theorem witness_UncompletedTransactionLeavesBlockStuck :
    stuckInRow.params.Admitted ∧ stuckInRow.nextMove = .proceed ∧ stuckInRow.phase ≠ .idle ∧
    stuckInRow.device.stalled = true := by decide
theorem witness_ConfigureRunsToItsEnd :
    (idleWith 0x01000000001C2000).params.Admitted ∧ (idleWith 0x01000000001C2000).agenda = [] ∧
    (idleWith 0x01000000001C2000).device.stalled = false ∧ (idleWith 0x01000000001C2000).phase = .idle ∧
    (idleWith 0x01000000001C2000).hostWords = encode (.configure 1843200) :: [] := by decide
theorem witness_SendEndsWhenDeviceEventuallyReady :
    (polling 0x41 [0, 0x60]).params.Admitted ∧ (polling 0x41 [0, 0x60]).agenda = [] ∧
    (polling 0x41 [0, 0x60]).device.stalled = false ∧ (polling 0x41 [0, 0x60]).phase = .poll ∧
    DeviceEventuallyReady (polling 0x41 [0, 0x60]) := ⟨by decide, by decide, by decide, by decide, 1, by decide⟩

/-- A block that polls a Device which answers every read with 0 (95_test_vectors.md P5). -/
def hanging : State := { polling 0x7A [] with device := { answers := [], steady := some 0, stalled := false } }

theorem hanging_answer (n : Nat) : ∀ s : State, s.device = hanging.device → s.nthAnswer n = 0 := by
  induction n with
  | zero => intro s h; simp [State.nthAnswer, State.deviceAnswer, h, hanging]
  | succ n ih => intro s h; exact ih _ (by rw [mmioRead32_device, h]; rfl)

theorem witness_SendPollsForEverWithoutThre :
    hanging.params.Admitted ∧ hanging.agenda = [] ∧ hanging.device.stalled = false ∧ hanging.phase = .poll ∧
    ¬DeviceEventuallyReady hanging :=
  ⟨by decide, by decide, by decide, by decide, fun ⟨n, h⟩ => by rw [hanging_answer n hanging rfl] at h; exact absurd h (by decide)⟩
theorem witness_EndlessPollIsAdmitted :
    hanging.params.Admitted ∧ hanging.agenda = [] ∧ hanging.phase = .poll ∧
    hanging.device = { answers := [], steady := some 0, stalled := false } := by decide
theorem witness_AccessesAreAlignedAndInWindow :
    (∀ off ∈ Params.defaults.offsets, Params.defaults.Admitted ∧ off ∈ Params.defaults.offsets) := by decide
theorem witness_StatusShowsBusyConfiguredErr :
    ({ sending 0 with agenda := [.sampleStatus] } : State).params.Admitted ∧
    ({ sending 0 with agenda := [.sampleStatus] } : State).nextMove = .sampleStatus := by decide
theorem witness_MmioReadReturnsTheDevicesAnswer :
    ((polling 0 [0x20]).device.answers = 0x20 :: []) ∧
    (hanging.device.answers = [] ∧ hanging.device.steady = some 0) ∧
    ((polling 0 []).device.answers = [] ∧ (polling 0 []).device.steady = none) := by decide

def errorThen (m : Move) : State := { idleWith 0 with err := 1, agenda := [m] }

theorem witness_ErrIsStickyUntilReset :
    (∃ t, step (errorThen .proceed) = .next t ∧ (errorThen .proceed).err ≠ 0 ∧
      (errorThen .proceed).nextMove ≠ .resetBlock) ∧
    (∃ t, step (errorThen .resetBlock) = .next t ∧ (errorThen .resetBlock).err ≠ 0 ∧
      (errorThen .resetBlock).nextMove = .resetBlock) := ⟨⟨_, rfl, by decide, by decide⟩, ⟨_, rfl, by decide, by decide⟩⟩
theorem witness_ErrIsWrittenOnlyByErroneousWords :
    ∃ t, step (idleWith 0x0200000000000041) = .next t ∧ (idleWith 0x0200000000000041).err = 0 ∧ t.err ≠ 0 :=
  ⟨_, rfl, by decide, by decide⟩
theorem witness_ConfiguredSetOnlyByLastRow :
    (∃ t, step (inRow 7) = .next t ∧ (inRow 7).Proceeds ∧ (inRow 7).phase = .cfg ∧ (inRow 7).stepIx = 7 ∧
      (inRow 7).configured = false ∧ t.configured = true) ∧
    (∃ t, step { sending 0 with agenda := [.resetBlock] } = .next t ∧ (sending 0).configured = true ∧
      t.configured = false) := ⟨⟨_, rfl, by decide⟩, ⟨_, rfl, by decide⟩⟩
/-- One witness for each clause, at the rows 6 and 7 where two clauses meet. -/
theorem witness_PhaseAndStepAdvanceAsListed :
    (∃ t, step { inRow 6 with agenda := [.resetBlock] } = .next t) ∧
    (∃ t, step { inRow 6 with agenda := [.sampleStatus] } = .next t) ∧
    (∃ t, step State.reset = .next t) ∧ (∃ t, step (idleWith 0x0100000000000000) = .next t) ∧
    (∃ t, step (idleWith 0x0200000000000000) = .next t) ∧ (∃ t, step (readyWith 0x0200000000000000) = .next t) ∧
    (∃ t, step (idleWith 0) = .next t) ∧ (∃ t, step stuckInRow = .next t) ∧
    (∃ t, step (inRow 6) = .next t ∧ (inRow 6).Proceeds ∧ (inRow 6).stepIx.toNat < 7) ∧
    (∃ t, step (inRow 7) = .next t ∧ (inRow 7).Proceeds ∧ (inRow 7).stepIx.toNat = 7) ∧
    (∃ t, step (polling 0 [0]) = .next t ∧ (polling 0 [0]).Proceeds) ∧
    (∃ t, step (sending 0) = .next t ∧ (sending 0).Proceeds) :=
  ⟨⟨_, rfl⟩, ⟨_, rfl⟩, ⟨_, rfl⟩, ⟨_, rfl⟩, ⟨_, rfl⟩, ⟨_, rfl⟩, ⟨_, rfl⟩, ⟨_, rfl⟩, ⟨_, rfl, by decide, by decide⟩,
    ⟨_, rfl, by decide, by decide⟩, ⟨_, rfl, by decide⟩, ⟨_, rfl, by decide⟩⟩
theorem witness_EveryTransactionIsOneEvent :
    (∃ t, step (inRow 0) = .next t ∧ (inRow 0).Proceeds ∧ (inRow 0).phase ≠ .idle) ∧
    (∃ t, step { inRow 1 with agenda := [.resetBlock] } = .next t) ∧
    (∃ t, step stuckInRow = .next t ∧ stuckInRow.nextMove ≠ .resetBlock ∧
      ¬(stuckInRow.Proceeds ∧ stuckInRow.phase ≠ .idle)) :=
  ⟨⟨_, rfl, by decide, by decide⟩, ⟨_, rfl⟩, ⟨_, rfl, by decide, by decide⟩⟩
theorem witness_ResetClearsTheBlock :
    (errorThen .resetBlock).params.Admitted ∧ (errorThen .resetBlock).nextMove = .resetBlock := by decide
theorem witness_ResetKeepsHostAndDevice :
    (errorThen .resetBlock).nextMove = .resetBlock ∧ ∃ t, step (errorThen .resetBlock) = .next t := ⟨by decide, _, rfl⟩
theorem witness_DeviceStepLeavesTheBlock :
    (errorThen (.deviceChange Device.free)).params.Admitted ∧
    (errorThen (.deviceChange Device.free)).nextMove = .deviceChange Device.free := by decide
theorem witness_DeviceAnswersMatterOnlyInPoll :
    (sending 0).phase ≠ .poll ∧ (sending 0).device.stalled = hanging.device.stalled ∧ ∃ t, step (sending 0) = .next t :=
  ⟨by decide, by decide, _, rfl⟩
theorem witness_OtherLsrBitsAreIgnored :
    (polling 0 [0x20]).phase = .poll ∧ SameBlock (polling 0 [0x20]) (polling 0 [0x60]) ∧
    (polling 0 [0x60]).params = (polling 0 [0x20]).params ∧ (polling 0 [0x20]).Proceeds ∧ (polling 0 [0x60]).Proceeds ∧
    thre (polling 0 [0x20]).params ((polling 0 [0x20]).nthAnswer 0) =
      thre (polling 0 [0x20]).params ((polling 0 [0x60]).nthAnswer 0) ∧
    (∃ t, step (polling 0 [0x20]) = .next t) ∧ ∃ t, step (polling 0 [0x60]) = .next t :=
  ⟨by decide, by decide, by decide, by decide, by decide, by decide, ⟨_, rfl⟩, ⟨_, rfl⟩⟩
/-- One parameter set for each line of the check. -/
theorem witness_FailingParameterSetIsRefused :
    ({ Params.defaults with baseAddr := 0x10000002 } : Params).baseAddr % 4 ≠ 0 ∧
    ({ Params.defaults with windowBytes := 0x1001 } : Params).windowBytes % 4 ≠ 0 ∧
    ({ Params.defaults with windowBytes := 0 } : Params).windowBytes < 4 ∧
    2 ^ 32 < ({ Params.defaults with baseAddr := 0xFFFFF004 } : Params).baseAddr + 0x1000 ∧
    (∃ off ∈ Params.defaults.offsets, 0x20 / 4 ≤ off) ∧
    ({ Params.defaults with valLcr8n1 := 0x83 } : Params).valLcr8n1 &&& Params.defaults.valLcrDlab ≠ 0 ∧
    ({ Params.defaults with valLcrDlab := 0 } : Params).valLcrDlab = 0 := by decide
theorem witness_AdmittedParameterSetAlwaysSteps : State.reset.params.Admitted := by decide
theorem witness_ParametersAreFixed : ∃ t, step (inRow 0) = .next t := ⟨_, rfl⟩
theorem polling_inv : (polling 0x41 [0x20]).Inv :=
  ⟨by decide, by decide, by decide, by decide, by decide⟩
theorem witness_StateInvariantKeptByEveryStep :
    (polling 0x41 [0x20]).Inv ∧ ∃ t, step (polling 0x41 [0x20]) = .next t := ⟨polling_inv, _, rfl⟩
/-- From reset, with a word on the port, and with a reset next. -/
theorem witness_HistoryStaysExplainedByAcceptedWords :
    (Explains [] (idleWith 0x01000000001C2000) ∧ (∃ t, step (idleWith 0x01000000001C2000) = .next t) ∧
      (idleWith 0x01000000001C2000).nextMove ≠ .resetBlock) ∧
    (Explains [] { idleWith 0 with agenda := [.resetBlock] } ∧
      ∃ t, step { idleWith 0 with agenda := [.resetBlock] } = .next t) :=
  ⟨⟨⟨[], [], [], nofun, ⟨rfl, rfl⟩, rfl, rfl, ⟨nofun, nofun⟩, rfl⟩, ⟨_, rfl⟩, by decide⟩,
    ⟨[], [], [], nofun, ⟨rfl, rfl⟩, rfl, rfl, ⟨nofun, nofun⟩, rfl⟩, _, rfl⟩
/-- The program `0x03...` (one reserved opcode) ends after one step, with a sample before it. -/
theorem witness_EndedProgramHasExactlyItsTraces :
    Move.resetBlock ∉ [Move.sampleStatus] ∧
    ∃ t, runSteps 2 { State.resetWith Params.defaults with
      hostWords := [0x0300000000000000], agenda := [.sampleStatus], device := Device.free, draws := 0 } = .next t ∧
      t.Ended := ⟨by decide, _, rfl, by decide⟩

/-- A block about to write THR after a CONFIGURE whose last LCR write is in the history. -/
def sendingAfterRow5 : State := { sending 0x41 with history := [writeEvent Params.defaults 3 0x03] }

theorem sendingAfterRow5_lcrInv : sendingAfterRow5.LcrInv := ⟨by decide, by decide, by decide⟩
theorem witness_LcrInvariantKeptByEveryStep :
    LcrApart sendingAfterRow5.params ∧ sendingAfterRow5.LcrInv ∧ ∃ t, step sendingAfterRow5 = .next t :=
  ⟨by decide, sendingAfterRow5_lcrInv, _, rfl⟩
theorem witness_ThrIsNeverWrittenWithDlabSet :
    sendingAfterRow5.params.Admitted ∧ sendingAfterRow5.LcrInv ∧ sendingAfterRow5.phase = .tx :=
  ⟨by decide, sendingAfterRow5_lcrInv, by decide⟩
theorem witness_AssembledStatementsDecode :
    (4294967295 < 2 ^ 32) ∧ (255 < 256) ∧ (18446744073709551615 < 2 ^ 64) ∧ (∀ b ∈ [0, 255], b < 256) ∧
    (Stmt.send 256).wellFormed = false := by decide
theorem witness_SendStrLineSendsEachCharacter :
    ∀ c ∈ ['a', ';', ' '], c.toNat < 128 ∧ c ≠ '"' ∧ c ≠ '\\' := by simp
theorem witness_BlocksOfAPlatformAreIndependent : ∃ cs, Platform.step 0 twoBlocks = .next cs := ⟨_, rfl⟩

end Sys2Proof.Tests
end

section
/-! The scope statements (00_scope.md): what a Device step changes, and that the parameter set is fixed. -/

namespace Sys2Proof.Machine

/-- No Block step writes the parameter set (00_scope.md R6). -/
theorem blockStep_params {s : State} (hp : s.phase ≠ .idle) : (blockStep s).params = s.params := by
  obtain ⟨-, h⟩ | ⟨-, -, -, h⟩ | ⟨-, -, -, h⟩ | ⟨-, -, -, h⟩ | ⟨-, -, -, h⟩ | ⟨-, -, h⟩ := blockStep_cases s hp <;>
    simp [h]

/-- The acceptance of a word on a ready port does not write the parameter set (00_scope.md R6). -/
theorem acceptWord_params {w : Cmd} {s t : State} (ha : s.params.Admitted) (hp : s.phase = .idle)
    (h : acceptWord w s = .next t) : t.params = s.params := by
  obtain ⟨_, -, rfl⟩ | ⟨_, -, rfl⟩ | ⟨_, -, -, rfl⟩ | ⟨_, -, -, rfl⟩ := acceptWord_cases ha hp h <;> simp

/-- Settles O45, by the cases of one step. -/
theorem parametersAreFixed : Obligations.ParametersAreFixed := by
  intro s t h
  obtain ⟨ha, ⟨-, rfl⟩ | ⟨_, -, rfl⟩ | ⟨-, rfl⟩ | ⟨-, -, -, rfl⟩ | ⟨-, hp, _, _, -, haccept⟩ | ⟨-, hp, rfl⟩⟩ := step_cases h
  · exact s.popMove.resetBlock_params
  · exact s.popMove_params
  · exact s.popMove.sampleStatus_params
  · exact s.popMove_params
  · exact acceptWord_params (s := s.popMove.popWord) ha hp haccept
  · exact blockStep_params (s := s.popMove) hp

/-- Settles O40: the step with a Device change next is exactly that change, after the move has left the agenda. -/
theorem deviceStepLeavesTheBlock : Obligations.DeviceStepLeavesTheBlock :=
  fun _ _ ha hm => step_device ha hm

end Sys2Proof.Machine
end

section
/-! The state statements (10_state.md): STATUS, reset, the pair (phase, step), and what of the Device the block depends on. -/

namespace Sys2Proof.Machine

/-! ### What a step answers -/

theorem admitted_of_step {s t : State} (h : step s = .next t) : s.params.Admitted := (step_cases h).1

theorem step_next_unique {s t u : State} (h : step s = .next t) (hu : step s = .next u) : t = u :=
  Host.Outcome.next.inj (h.symm.trans hu)

/-- A poll reads LSR once, and its THRE test decides the phase (42_transmit.md R84). -/
theorem pollStep_eq (s : State) :
    pollStep s = { (mmioRead32 s.params.offLsr s).2 with
      phase := if thre s.params (s.nthAnswer 0) then .tx else s.phase } := by
  cases ht : thre s.params (s.nthAnswer 0) with
  | true => exact pollStep_set ht
  | false => exact pollStep_clear ht

theorem step_poll {s : State} (ha : s.params.Admitted) (hpr : s.Proceeds) (hp : s.phase = .poll) :
    step s = .next { (mmioRead32 s.params.offLsr s.popMove).2 with
      phase := if thre s.params (s.nthAnswer 0) then .tx else .poll } := by
  obtain ⟨hm, hd⟩ := hpr
  rw [step_block ha hm (by simp [hp]), blockStep_poll (s := s.popMove) hd hp, pollStep_eq, s.popMove_phase, hp]
  rfl

/-! ### STATUS and reset (10_state.md R19, R21, R32) -/

/-- The fields of STATUS (10_state.md R19), for every value of what it shows. -/
theorem status_bit_fields : ∀ (e : BitVec 4) (c b : Bool),
    let v := (e ++ (0 : BitVec 2) ++ BitVec.ofBool c ++ BitVec.ofBool b).setWidth 32
    v.getLsbD 1 = c ∧ v.extractLsb' 2 2 = 0 ∧ v.extractLsb' 4 4 = e ∧ v.extractLsb' 8 24 = 0 := by decide

/-- Settles O29: BUSY is bit 0, the other fields are read off the word, and a sample is the step's whole effect. -/
theorem statusShowsBusyConfiguredErr : Obligations.StatusShowsBusyConfiguredErr := by
  refine ⟨fun s => ⟨?_, status_bit_fields s.err s.configured s.busy⟩, fun s ha hm => step_sample ha hm⟩
  rw [State.status, status_bit_busy, busy_eq]

theorem resetBlock_status (s : State) : s.resetBlock.status = 0 := by
  rw [State.status, busy_eq, s.resetBlock_err, s.resetBlock_configured, s.resetBlock_phase]; decide

/-- Settles O38: the step with a reset next is exactly the reset, after the move has left the agenda. -/
theorem resetClearsTheBlock : Obligations.ResetClearsTheBlock :=
  fun _ ha hm => ⟨_, step_reset ha hm, rfl, rfl, rfl, rfl, rfl, rfl, rfl, resetBlock_status _, rfl⟩

theorem resetWith_inv (p : Params) : (State.resetWith p).Inv where
  errLegal := Nat.zero_le _
  divisorRange := Nat.zero_le _
  sendConfigured := nofun
  stepOutsideCfg _ := rfl
  eventsOk := nofun

/-- Settles O47: the invariant's clauses at the reset values. -/
theorem stateInvariantAtReset : Obligations.StateInvariantAtReset := ⟨resetWith_inv, rfl⟩

/-! ### The pair (phase, step) (10_state.md R20) -/

theorem step_environment_phase_stepIx {s t : State} (h : step s = .next t) (hr : s.nextMove ≠ .resetBlock)
    (hn : s.nextMove ≠ .proceed) : t.phase = s.phase ∧ t.stepIx = s.stepIx := by
  have ha := admitted_of_step h
  cases hm : s.nextMove with
  | resetBlock => exact absurd hm hr
  | proceed => exact absurd hm hn
  | deviceChange d => rw [step_next_unique h (step_device ha hm)]; exact ⟨rfl, rfl⟩
  | sampleStatus => rw [step_next_unique h (step_sample ha hm)]; exact ⟨rfl, rfl⟩

/-- The acceptance of a word, by what it decodes to (30_encoding.md R59). -/
theorem acceptWord_phase_stepIx {w : Cmd} {s t : State} (ha : s.params.Admitted) (hp : s.phase = .idle)
    (h : acceptWord w s = .next t) :
    (∀ clk, decode w = .ok (.configure clk) → t.phase = .cfg ∧ t.stepIx = 0) ∧
    (∀ b, decode w = .ok (.send b) → t.phase = (if s.configured then .poll else .idle) ∧ t.stepIx = s.stepIx) ∧
    (∀ e, decode w = .error e → t.phase = .idle ∧ t.stepIx = s.stepIx) := by
  obtain ⟨_, hd, rfl⟩ | ⟨_, hd, rfl⟩ | ⟨_, hd, hc, rfl⟩ | ⟨_, hd, hc, rfl⟩ := acceptWord_cases ha hp h
  · simp [hd, hp]
  · simp [hd]
  · simp [hd, hc, hp]
  · simp [hd, hc]

/-- A CFG step before row 7 goes to the next row (41_configuration.md R75). -/
theorem cfgStep_inner_phase_stepIx {s : State} (h : s.stepIx.toNat < 7) :
    (cfgStep s).phase = s.phase ∧ (cfgStep s).stepIx.toNat = s.stepIx.toNat + 1 := by
  have h7 : s.stepIx ≠ 7 := by bv_omega
  have hsucc : (s.stepIx + 1).toNat = s.stepIx.toNat + 1 := by bv_omega
  rw [cfgStep_inner h7]
  exact ⟨rfl, hsucc⟩

theorem cfgStep_last_phase_stepIx {s : State} (h : s.stepIx.toNat = 7) :
    (cfgStep s).phase = .idle ∧ (cfgStep s).stepIx.toNat = 7 := by
  rw [cfgStep_last (BitVec.eq_of_toNat_eq h)]
  exact ⟨rfl, h⟩

theorem eq_blockStep_of_step {s t : State} (h : step s = .next t) (hm : s.nextMove = .proceed) (hp : s.phase ≠ .idle) :
    t = blockStep s.popMove := step_next_unique h (step_block (admitted_of_step h) hm hp)

/-- Settles O36, clause by clause: the move and the phase fix which equation of `step` applies. -/
theorem phaseAndStepAdvanceAsListed : Obligations.PhaseAndStepAdvanceAsListed := by
  intro s t h
  have ha := admitted_of_step h
  refine ⟨fun hm => ?reset, step_environment_phase_stepIx h, fun hm hp => ⟨fun hw => ?wait, fun w ws hw => ?accept⟩,
    fun hm hp hd => ?stalled, fun ⟨hm, hd⟩ hp hk => ?inner, fun ⟨hm, hd⟩ hp hk => ?last, fun hpr hp => ?poll,
    fun ⟨hm, hd⟩ hp => ?tx⟩
  case reset => rw [step_next_unique h (step_reset ha hm)]; exact ⟨rfl, rfl⟩
  case wait => rw [step_next_unique h (step_wait ha hm hp hw)]; exact ⟨hp, rfl⟩
  case accept =>
    rw [step_accept ha hm hp hw] at h
    exact acceptWord_phase_stepIx (s := s.popMove.popWord) ha hp h
  case stalled => rw [eq_blockStep_of_step h hm hp, blockStep_stalled (s := s.popMove) hd]; exact ⟨rfl, rfl⟩
  case inner =>
    rw [eq_blockStep_of_step h hm (by simp [hp]), blockStep_cfg (s := s.popMove) hd hp, ← hp]
    exact cfgStep_inner_phase_stepIx (s := s.popMove) hk
  case last =>
    rw [eq_blockStep_of_step h hm (by simp [hp]), blockStep_cfg (s := s.popMove) hd hp]
    exact cfgStep_last_phase_stepIx (s := s.popMove) hk
  case poll => rw [step_next_unique h (step_poll ha hpr hp)]; exact ⟨rfl, rfl⟩
  case tx => rw [eq_blockStep_of_step h hm (by simp [hp]), blockStep_tx (s := s.popMove) hd hp]; exact ⟨rfl, rfl⟩

/-! ### Replacing the Device commutes with every step outside POLL (10_state.md R30) -/

/-- The same state with another Device. -/
def State.withDevice (s : State) (d : Device) : State := { s with device := d }

theorem recordError_withDevice (s : State) (c : CmdError) (d : Device) :
    (s.withDevice d).recordError c = (s.recordError c).withDevice d := by
  simp only [recordError_eq, State.withDevice]

theorem acceptWord_withDevice {w : Cmd} {s t : State} (d : Device) (ha : s.params.Admitted) (hp : s.phase = .idle)
    (h : acceptWord w s = .next t) : acceptWord w (s.withDevice d) = .next (t.withDevice d) := by
  rw [acceptWord_eq (s := s.withDevice d) w ha hp]
  obtain ⟨_, hd, rfl⟩ | ⟨_, hd, rfl⟩ | ⟨_, hd, hc, rfl⟩ | ⟨_, hd, hc, rfl⟩ := acceptWord_cases ha hp h
  · simp only [hd, recordError_withDevice]
  · simp only [hd]; rfl
  · simp only [hd, sendAccept_unconfigured (s := s.withDevice d) _ hc, recordError_withDevice]
  · simp only [hd, sendAccept_configured (s := s.withDevice d) _ hc]; rfl

theorem cfgStep_withDevice (s : State) (d : Device) : cfgStep (s.withDevice d) = (cfgStep s).withDevice d := by
  by_cases h7 : s.stepIx = 7
  · rw [cfgStep_last h7, cfgStep_last (s := s.withDevice d) h7]; rfl
  · rw [cfgStep_inner h7, cfgStep_inner (s := s.withDevice d) h7]; rfl

theorem blockStep_withDevice {s : State} {d : Device} (hi : s.phase ≠ .idle) (hp : s.phase ≠ .poll)
    (hd : s.device.stalled = d.stalled) : blockStep (s.withDevice d) = (blockStep s).withDevice d := by
  cases hs : s.device.stalled with
  | true => rw [blockStep_stalled hs, blockStep_stalled (s := s.withDevice d) (hd.symm.trans hs)]
  | false =>
    have hs' : d.stalled = false := hd.symm.trans hs
    cases hph : s.phase with
    | idle => exact absurd hph hi
    | poll => exact absurd hph hp
    | cfg => rw [blockStep_cfg hs hph, blockStep_cfg (s := s.withDevice d) hs' hph, cfgStep_withDevice]
    | tx => rw [blockStep_tx hs hph, blockStep_tx (s := s.withDevice d) hs' hph]; rfl

/-- Outside POLL a step from another Device that stalls alike reaches the same state but for the Device, which only a Device
move replaces. -/
theorem step_withDevice {s t : State} {d : Device} (hp : s.phase ≠ .poll) (hd : s.device.stalled = d.stalled)
    (h : step s = .next t) : ∃ d', step (s.withDevice d) = .next (t.withDevice d') := by
  obtain ⟨ha, ⟨hm, rfl⟩ | ⟨d', hm, rfl⟩ | ⟨hm, rfl⟩ | ⟨hm, hi, hw, rfl⟩ | ⟨hm, hi, w, ws, hw, hacc⟩ | ⟨hm, hi, rfl⟩⟩ :=
    step_cases h
  · exact ⟨d, step_reset (s := s.withDevice d) ha hm⟩
  · exact ⟨d', step_device (s := s.withDevice d) ha hm⟩
  · exact ⟨d, step_sample (s := s.withDevice d) ha hm⟩
  · exact ⟨d, step_wait (s := s.withDevice d) ha hm hi hw⟩
  · exact ⟨d, (step_accept (s := s.withDevice d) ha hm hi hw).trans
      (acceptWord_withDevice (s := s.popMove.popWord) d ha hi hacc)⟩
  · exact ⟨d, (step_block (s := s.withDevice d) ha hm hi).trans
      (congrArg _ (blockStep_withDevice (s := s.popMove) hi hp hd))⟩

/-- Settles O41: the two next states differ in the Device alone, which is neither the block's nor observable. -/
theorem deviceAnswersMatterOnlyInPoll : Obligations.DeviceAnswersMatterOnlyInPoll := by
  intro s t d hp hd h
  obtain ⟨d', h'⟩ := step_withDevice hp hd h
  exact ⟨_, h', ⟨rfl, rfl, rfl, rfl, rfl, rfl, rfl⟩, rfl, rfl, rfl, rfl⟩

/-! ### The THRE test is all a poll takes from its answer (10_state.md R25) -/

/-- Settles O42: each poll keeps every field of the block but the phase, which the THRE test gives, and appends one event. -/
theorem otherLsrBitsAreIgnored : Obligations.OtherLsrBitsAreIgnored := by
  intro s s' t t' hp ⟨hphase, hstep, hdiv, htx, hconf, herr, hhist⟩ hparams hpr hpr' hthre h h'
  obtain rfl := step_next_unique h (step_poll (admitted_of_step h) hpr hp)
  obtain rfl := step_next_unique h' (step_poll (admitted_of_step h') hpr' (hphase.trans hp))
  rw [hparams, ← hthre]
  refine ⟨rfl, hstep, hdiv, htx, hconf, herr, status_congr rfl hconf herr, ?_⟩
  simp only [mmioRead32_history, List.dropLast_concat, State.popMove_history, hhist]

end Sys2Proof.Machine
end

section
/-! The memory statements (20_memory.md): where an access lands, which steps are one bus event, the transaction the Device does
not complete, and the parameter sets the check refuses. -/

namespace Sys2Proof.Machine

/-! ### Where an access lands (20_memory.md R37, R38) -/

/-- Under the configuration check the four bytes of a register lie inside the window (20_memory.md R40). -/
theorem register_within_window {p : Params} {off : Nat} (ha : p.Admitted) (hoff : off ∈ p.offsets) :
    4 * off + 4 ≤ p.windowBytes := by
  obtain ⟨-, -, -, hoffs, -⟩ := ha
  have := hoffs off hoff
  omega

/-- Under the configuration check the `mod` of the address function changes nothing (20_memory.md R38). -/
theorem addr_eq_of_admitted {p : Params} {off : Nat} (ha : p.Admitted) (hoff : off ∈ p.offsets) :
    p.addr off = p.baseAddr + 4 * off := by
  have hin := register_within_window ha hoff
  obtain ⟨-, -, hfit, -⟩ := ha
  exact Nat.mod_eq_of_lt (by omega)

/-- Settles O28: the address does not wrap, and the register's bytes lie inside the window, which fits the address space. -/
theorem accessesAreAlignedAndInWindow : Obligations.AccessesAreAlignedAndInWindow := by
  intro p off ha hoff
  have hin := register_within_window ha hoff
  rw [addr_eq_of_admitted ha hoff]
  obtain ⟨hbase, -, hfit, -⟩ := ha
  refine ⟨rfl, ?_, ?_, ?_, ?_⟩ <;> omega

/-! ### Which steps are one bus event (20_memory.md R44, R45) -/

theorem writeEvent_ok {p : Params} {off : Nat} (hoff : off ∈ p.offsets) (v : Word) : EventOk p (writeEvent p off v) :=
  ⟨hoff, rfl⟩

theorem readEvent_ok {p : Params} {off : Nat} (hoff : off ∈ p.offsets) (r : Word) : EventOk p (readEvent p off r) :=
  ⟨hoff, rfl⟩

/-- A completing Block step is one transaction with one of the seven registers: a write in CFG and in TX, a read of LSR in
POLL. -/
theorem blockStep_appends_event {s : State} (hd : s.device.stalled = false) (hp : s.phase ≠ .idle) :
    ∃ e, EventOk s.params e ∧ (blockStep s).history = s.history ++ [e] := by
  obtain ⟨hd', -⟩ | ⟨-, -, -, h⟩ | ⟨-, -, -, h⟩ | ⟨-, -, -, h⟩ | ⟨-, -, -, h⟩ | ⟨-, -, h⟩ := blockStep_cases s hp
  · exact absurd hd' (by simp [hd])
  · exact ⟨_, writeEvent_ok (cfgRow_fst_mem_offsets _ _ _) _, congrArg State.history h⟩
  · exact ⟨_, writeEvent_ok (by simp [Params.offsets]) _, congrArg State.history h⟩
  · exact ⟨_, readEvent_ok (by simp [Params.offsets]) _, congrArg State.history h⟩
  · exact ⟨_, readEvent_ok (by simp [Params.offsets]) _, congrArg State.history h⟩
  · exact ⟨_, writeEvent_ok (by simp [Params.offsets]) _, congrArg State.history h⟩

/-- The acceptance of a word on a ready port makes no transaction (30_encoding.md R59). -/
theorem acceptWord_history {w : Cmd} {s t : State} (ha : s.params.Admitted) (hp : s.phase = .idle)
    (h : acceptWord w s = .next t) : t.history = s.history := by
  obtain ⟨_, -, rfl⟩ | ⟨_, -, rfl⟩ | ⟨_, -, -, rfl⟩ | ⟨_, -, -, rfl⟩ := acceptWord_cases ha hp h <;> simp

/-- A step that neither resets nor completes a transaction makes no event (20_memory.md R45). -/
theorem step_keeps_history {s t : State} (h : step s = .next t) (hr : s.nextMove ≠ .resetBlock)
    (hn : ¬(s.Proceeds ∧ s.phase ≠ .idle)) : t.history = s.history := by
  obtain ⟨ha, ⟨hm, -⟩ | ⟨_, -, rfl⟩ | ⟨-, rfl⟩ | ⟨-, -, -, rfl⟩ | ⟨-, hp, _, _, -, haccept⟩ | ⟨hm, hp, rfl⟩⟩ := step_cases h
  · exact absurd hm hr
  · exact s.popMove_history
  · exact s.popMove.sampleStatus_history
  · exact s.popMove_history
  · exact acceptWord_history (s := s.popMove.popWord) ha hp haccept
  · have hd : s.device.stalled = true := eq_true_of_ne_false fun hd => hn ⟨⟨hm, hd⟩, hp⟩
    rw [blockStep_stalled (s := s.popMove) hd, s.popMove_history]

/-- Settles O37, clause by clause: the completing Block step, the reset, and every other step. -/
theorem everyTransactionIsOneEvent : Obligations.EveryTransactionIsOneEvent := by
  intro s t h
  refine ⟨fun ⟨⟨hm, hd⟩, hp⟩ => ?block, fun hm => ?reset, step_keeps_history h⟩
  case block =>
    rw [eq_blockStep_of_step h hm hp]
    exact blockStep_appends_event (s := s.popMove) hd hp
  case reset =>
    rw [step_next_unique h (step_reset (admitted_of_step h) hm)]
    exact s.popMove.resetBlock_history

/-! ### The transaction the Device does not complete (20_memory.md R51) -/

/-- Settles O21: a stalled Block step changes nothing once its move has left the agenda, and outside IDLE BUSY is 1. -/
theorem uncompletedTransactionLeavesBlockStuck : Obligations.UncompletedTransactionLeavesBlockStuck := by
  intro s ha hm hp hd
  refine ⟨?_, status_busy hp⟩
  rw [step_block ha hm hp, blockStep_stalled (s := s.popMove) hd]
  rfl

/-! ### The parameter sets the check refuses (20_memory.md R40, 00_scope.md R7) -/

theorem exec_refused {s : State} (i : Instr) (ha : ¬s.params.Admitted) : exec i s = .refused .parametersNotAdmitted := by
  cases i with
  | configure clk => exact whenReady_refused (configureAccept clk) ha
  | send b => exact whenReady_refused (sendAccept b) ha

/-- A set that fails one line of 20_memory.md R40 or 00_scope.md R7 fails the check. -/
theorem not_admitted_of_failing_line {p : Params}
    (h : p.baseAddr % 4 ≠ 0 ∨ p.windowBytes % 4 ≠ 0 ∨ p.windowBytes < 4 ∨ 2 ^ p.addrW < p.baseAddr + p.windowBytes ∨
      (∃ off ∈ p.offsets, p.windowBytes / 4 ≤ off) ∨ p.valLcr8n1 &&& p.valLcrDlab ≠ 0 ∨ p.valLcrDlab = 0) :
    ¬p.Admitted := by
  rintro ⟨hbase, ⟨hwords, hsize⟩, hfit, hoffs, h8n1, hdlab, -⟩
  obtain h | h | h | h | ⟨off, hmem, h⟩ | h | h := h
  · exact h hbase
  · exact h hwords
  · exact Nat.not_lt.2 hsize h
  · exact Nat.not_lt.2 hfit h
  · exact Nat.not_lt.2 h (hoffs off hmem)
  · exact h h8n1
  · exact hdlab h

/-- Settles O43: the failing line refutes the check, which the step and the gate of the port both ask. -/
theorem failingParameterSetIsRefused : Obligations.FailingParameterSetIsRefused := by
  intro s i h
  have ha := not_admitted_of_failing_line h
  exact ⟨step_refused ha, exec_refused i ha⟩

end Sys2Proof.Machine
end

section
/-! The encoding statements (30_encoding.md): the fields of a word, the decoder against the encoder and against the definition
of an illegal word, the acceptance of a word at the port, and the assembler's statements. -/

namespace Sys2Proof

/-! ### A word is its fields (30_encoding.md R53, R56) -/

theorem cmd_toNat_eq_fields (w : Cmd) :
    w.toNat = (cmdOpc w).toNat * 2 ^ 56 + (cmdRsvd w).toNat * 2 ^ 32 + (cmdOperand w).toNat := by
  rw [cmdOpc_toNat, cmdRsvd_toNat, cmdOperand_toNat]; omega

theorem cmdOperand_toNat_eq_bytes (w : Cmd) :
    (cmdOperand w).toNat = (cmdOperandHi w).toNat * 2 ^ 8 + (cmdByte w).toNat := by
  rw [cmdOperand_toNat, cmdOperandHi_toNat, cmdByte_toNat]; omega

theorem cmdOperand_encode_configure (clk : Word) : cmdOperand (encode (.configure clk)) = clk := by
  apply BitVec.eq_of_toNat_eq
  have := clk.isLt
  rw [cmdOperand_toNat, encode_configure_toNat]; omega

theorem cmdOperandHi_encode_send (b : Byte) : cmdOperandHi (encode (.send b)) = 0 := by
  apply BitVec.eq_of_toNat_eq
  have := b.isLt
  rw [cmdOperandHi_toNat, encode_send_toNat]; simp only [BitVec.reduceToNat]; omega

theorem cmdByte_encode_send (b : Byte) : cmdByte (encode (.send b)) = b := by
  apply BitVec.eq_of_toNat_eq
  have := b.isLt
  rw [cmdByte_toNat, encode_send_toNat]; omega

theorem encode_configure_cmdOperand {w : Cmd} (hr : cmdRsvd w = 0) (ho : cmdOpc w = opcConfigure) :
    encode (.configure (cmdOperand w)) = w := by
  apply BitVec.eq_of_toNat_eq
  rw [encode_configure_toNat, cmd_toNat_eq_fields w, hr, ho]; rfl

theorem encode_send_cmdByte {w : Cmd} (hr : cmdRsvd w = 0) (ho : cmdOpc w = opcSend) (hh : cmdOperandHi w = 0) :
    encode (.send (cmdByte w)) = w := by
  apply BitVec.eq_of_toNat_eq
  rw [encode_send_toNat, cmd_toNat_eq_fields w, cmdOperand_toNat_eq_bytes, hr, ho, hh]
  simp [opcSend]

/-! ### What the decoder answers (30_encoding.md R59) -/

theorem decode_configure {w : Cmd} (hr : cmdRsvd w = 0) (ho : cmdOpc w = opcConfigure) :
    decode w = .ok (.configure (cmdOperand w)) := by
  simp [decode, hr, ho]

theorem decode_send {w : Cmd} (hr : cmdRsvd w = 0) (ho : cmdOpc w = opcSend) (hh : cmdOperandHi w = 0) :
    decode w = .ok (.send (cmdByte w)) := by
  simp [decode, hr, ho, hh, opcSend, opcConfigure]

/-- The rule's reserved opcodes are those of no command (30_encoding.md R54, R58). -/
theorem opcode_reserved_iff (o : BitVec 8) : (o = 0x00 ∨ 3 ≤ o.toNat) ↔ o ≠ opcConfigure ∧ o ≠ opcSend := by
  unfold opcConfigure opcSend; bv_omega

/-- The rule's illegal word, by the decoder's own fields and opcodes. -/
theorem illegalWord_iff (w : Cmd) :
    Machine.IllegalWord w ↔
      (cmdOpc w ≠ opcConfigure ∧ cmdOpc w ≠ opcSend) ∨ cmdRsvd w ≠ 0 ∨ (cmdOpc w = opcSend ∧ cmdOperandHi w ≠ 0) :=
  or_congr_left (opcode_reserved_iff (cmdOpc w))

/-- An illegal word fails one of the decoder's checks (30_encoding.md R58). -/
theorem decode_illegal {w : Cmd} (h : Machine.IllegalWord w) : ∃ e, decode w = .error e := by
  by_cases hr : cmdRsvd w = 0
  case neg => exact ⟨.reservedBits, if_pos hr⟩
  obtain ⟨h1, h2⟩ | hr' | ⟨ho, hh⟩ := (illegalWord_iff w).1 h
  · exact ⟨.reservedOpcode, by rw [decode, if_neg (not_not_intro hr), if_neg h1, if_neg h2]⟩
  · exact absurd hr hr'
  · have h1 : cmdOpc w ≠ opcConfigure := by rw [ho]; decide
    exact ⟨.sendOperandHigh, by rw [decode, if_neg (not_not_intro hr), if_neg h1, if_pos ho, if_pos hh]⟩

/-- A word is a CONFIGURE, a SEND or illegal, by its fields (30_encoding.md R54, R58). -/
theorem cmd_cases (w : Cmd) :
    (cmdRsvd w = 0 ∧ cmdOpc w = opcConfigure) ∨
    (cmdRsvd w = 0 ∧ cmdOpc w = opcSend ∧ cmdOperandHi w = 0) ∨
    Machine.IllegalWord w := by
  rw [illegalWord_iff]; tauto

theorem decode_encode (i : Instr) : decode (encode i) = .ok i := by
  cases i with
  | configure clk =>
    obtain ⟨ho, hr⟩ := Laws.Fields.configure clk
    rw [decode_configure hr ho, cmdOperand_encode_configure]
  | send b =>
    obtain ⟨ho, hr⟩ := Laws.Fields.send b
    rw [decode_send hr ho (cmdOperandHi_encode_send b), cmdByte_encode_send]

/-- Settles O1: each field of an encoded command holds what the decoder reads from it. -/
theorem decodeOfEncodeIsTheCommand : Obligations.DecodeOfEncodeIsTheCommand := fun i _ => decode_encode i

theorem Instr.wellFormed_eq_true (i : Instr) : i.wellFormed = true := by cases i <;> rfl

theorem encode_of_decode {w : Cmd} {i : Instr} (h : decode w = .ok i) : encode i = w := by
  obtain ⟨hr, ho⟩ | ⟨hr, ho, hh⟩ | hill := cmd_cases w
  · obtain rfl := Except.ok.inj ((decode_configure hr ho).symm.trans h)
    exact encode_configure_cmdOperand hr ho
  · obtain rfl := Except.ok.inj ((decode_send hr ho hh).symm.trans h)
    exact encode_send_cmdByte hr ho hh
  · obtain ⟨e, he⟩ := decode_illegal hill
    exact nomatch he.symm.trans h

/-- Settles O2: a legal word is the sum of its fields, of which the zero ones are checked and the others kept. -/
theorem encodeOfDecodeIsTheWord : Obligations.EncodeOfDecodeIsTheWord :=
  fun _ i h => ⟨i.wellFormed_eq_true, encode_of_decode h⟩

theorem decode_error_iff_illegalWord (w : Cmd) : (∃ e, decode w = .error e) ↔ Machine.IllegalWord w := by
  refine ⟨fun ⟨e, he⟩ => ?_, decode_illegal⟩
  obtain ⟨hr, ho⟩ | ⟨hr, ho, hh⟩ | hill := cmd_cases w
  · exact nomatch (decode_configure hr ho).symm.trans he
  · exact nomatch (decode_send hr ho hh).symm.trans he
  · exact hill

/-- Settles O3: by its fields a word is a command, which decodes, or illegal, which does not. -/
theorem decoderRefusesExactlyIllegalWords : Obligations.DecoderRefusesExactlyIllegalWords := decode_error_iff_illegalWord

/-- Settles O4: the decoder evaluated on the seven words. -/
theorem writtenOutWordsDecode : Obligations.WrittenOutWordsDecode := by
  unfold Obligations.WrittenOutWordsDecode; decide

theorem ofNat_toNat_mod {n : Nat} (w : BitVec n) : BitVec.ofNat n (w.toNat % 2 ^ n) = w := by
  rw [Nat.mod_eq_of_lt w.isLt, BitVec.ofNat_toNat, BitVec.setWidth_eq]

/-- The host's view reads every encoded command back (30_encoding.md R52, R60). -/
theorem decodeTableWord_encode (i : Instr) : decodeTableWord 64 (encode i).toNat = some i := by
  simp only [decodeTableWord, Nat.le_refl, if_true, ofNat_toNat_mod, decode_encode]

end Sys2Proof

namespace Sys2Proof.Machine

/-! ### The acceptance of a word (30_encoding.md R59, R61) -/

theorem acceptWord_of_decode {w : Cmd} {i : Instr} (s : State) (h : decode w = .ok i) : acceptWord w s = exec i s := by
  simp only [acceptWord, h]

/-- The state on which a word is accepted: the first word and the move are taken. -/
theorem popMove_popWord_eq {s : State} {w : Cmd} {ws : List Cmd} (hw : s.hostWords = w :: ws) :
    s.popMove.popWord = { s with hostWords := ws, agenda := s.agenda.tail } := by
  simp only [State.popWord, State.popMove, hw, List.tail_cons]

/-- Settles O6: the step is the word's acceptance, which is the decoded command's meaning. -/
theorem stepRunsTheDecodedCommand : Obligations.StepRunsTheDecodedCommand := by
  intro s w ws i ha hm hp hw hd _
  rw [step_accept ha hm hp hw, acceptWord_of_decode _ hd, popMove_popWord_eq hw]

/-- Settles O5: the placed word is the encoded command, and the step that accepts it takes away what placing it added. -/
theorem fetchedWordIsRunNext : Obligations.FetchedWordIsRunNext := by
  intro s i ha _
  refine ⟨decodeTableWord_encode i, ?_⟩
  rw [State.withFetchWord, ofNat_toNat_mod, step_accept (s := s.presentWord (encode i)) ha rfl rfl rfl,
    acceptWord_of_decode _ (decode_encode i)]
  rfl

/-- SEND's acceptance with NOT_CONFIGURED checked first, as the pseudocode has it. -/
theorem sendAccept_eq_pseudocode (b : Byte) (s : State) :
    sendAccept b s =
      if s.configured = false then s.recordError .notConfigured else { s with txData := b, phase := .poll } := by
  by_cases hc : s.configured = false
  · rw [if_pos hc, sendAccept_unconfigured b hc]
  · rw [if_neg hc, sendAccept_configured b (eq_true_of_ne_false hc)]

/-- The pseudocode's checks are the decoder's, over the same fields. -/
theorem acceptPseudocode_eq_fields (w : Cmd) (s : State) :
    acceptPseudocode w s =
      if cmdRsvd w ≠ 0 then s.recordError .illegalCommand
      else if cmdOpc w = opcConfigure then configureAccept (cmdOperand w) s
      else if cmdOpc w = opcSend then
        if cmdOperandHi w ≠ 0 then s.recordError .illegalCommand else sendAccept (cmdByte w) s
      else s.recordError .illegalCommand := by
  rw [sendAccept_eq_pseudocode]; rfl

theorem acceptWord_illegal {w : Cmd} {s : State} (ha : s.params.Admitted) (hp : s.phase = .idle) (h : IllegalWord w) :
    acceptWord w s = .next (s.recordError .illegalCommand) := by
  obtain ⟨e, he⟩ := decode_illegal h
  rw [acceptWord_eq w ha hp, he]

/-- The acceptance of a word is the pseudocode of 30_encoding.md R59. -/
theorem acceptWord_eq_acceptPseudocode (w : Cmd) {s : State} (ha : s.params.Admitted) (hp : s.phase = .idle) :
    acceptWord w s = .next (acceptPseudocode w s) := by
  rw [acceptWord_eq w ha hp, acceptPseudocode_eq_fields, decode]
  split_ifs <;> rfl

/-- Settles O7: the step is the word's acceptance, whose decoder asks the pseudocode's checks in the same order. -/
theorem hostStepIsAcceptPseudocode : Obligations.HostStepIsAcceptPseudocode := by
  intro s w ws ha hm hp hw
  rw [step_accept ha hm hp hw, acceptWord_eq_acceptPseudocode w (s := s.popMove.popWord) ha hp, popMove_popWord_eq hw]

/-- Settles O8: the acceptance of an illegal word is RecordError alone. -/
theorem illegalWordOnlyRecordsIllegalCommand : Obligations.IllegalWordOnlyRecordsIllegalCommand := by
  intro s w ws ha hm hp hw hill
  rw [step_accept ha hm hp hw, acceptWord_illegal (s := s.popMove.popWord) ha hp hill, popMove_popWord_eq hw,
    recordError_eq]
  rfl

/-! ### Which steps take a word (30_encoding.md R61) -/

theorem acceptWord_hostWords {w : Cmd} {s t : State} (ha : s.params.Admitted) (hp : s.phase = .idle)
    (h : acceptWord w s = .next t) : t.hostWords = s.hostWords := by
  obtain ⟨_, -, rfl⟩ | ⟨_, -, rfl⟩ | ⟨_, -, -, rfl⟩ | ⟨_, -, -, rfl⟩ := acceptWord_cases ha hp h <;> simp

/-- While the block is BUSY the words stay on the port (70_reset_and_hazards.md R113). -/
theorem blockStep_hostWords {s : State} (hp : s.phase ≠ .idle) : (blockStep s).hostWords = s.hostWords := by
  obtain ⟨-, h⟩ | ⟨-, -, -, h⟩ | ⟨-, -, -, h⟩ | ⟨-, -, -, h⟩ | ⟨-, -, -, h⟩ | ⟨-, -, h⟩ := blockStep_cases s hp <;>
    simp [h]

theorem step_ready_hostWords {s t : State} (h : step s = .next t) (hm : s.nextMove = .proceed) (hp : s.phase = .idle) :
    t.hostWords = s.hostWords.tail := by
  have ha := admitted_of_step h
  cases hw : s.hostWords with
  | nil => rw [step_next_unique h (step_wait ha hm hp hw)]; exact hw
  | cons w ws =>
    rw [step_accept ha hm hp hw] at h
    rw [acceptWord_hostWords (s := s.popMove.popWord) ha hp h, popMove_popWord_eq hw]
    rfl

theorem step_holds_hostWords {s t : State} (h : step s = .next t) (hn : ¬(s.nextMove = .proceed ∧ s.phase = .idle)) :
    t.hostWords = s.hostWords := by
  obtain ⟨-, ⟨-, rfl⟩ | ⟨_, -, rfl⟩ | ⟨-, rfl⟩ | ⟨hm, hp, -⟩ | ⟨hm, hp, -⟩ | ⟨-, hp, rfl⟩⟩ := step_cases h
  · exact s.popMove.resetBlock_hostWords
  · exact s.popMove_hostWords
  · exact s.popMove.sampleStatus_hostWords
  · exact absurd ⟨hm, hp⟩ hn
  · exact absurd ⟨hm, hp⟩ hn
  · exact blockStep_hostWords (s := s.popMove) hp

/-- Settles O9: the Host's step on a ready port takes the first word, and no other step takes any. -/
theorem wordsAreAcceptedOnceInOrder : Obligations.WordsAreAcceptedOnceInOrder :=
  fun _ _ h => ⟨fun ⟨hm, hp⟩ => step_ready_hostWords h hm hp, step_holds_hostWords h⟩

end Sys2Proof.Machine

namespace Sys2Proof

/-! ### The assembler (30_encoding.md R62 to R64) -/

theorem Stmt.assemble_wellFormed {t : Stmt} (h : t.wellFormed = true) : t.assemble = .ok t.words := if_pos h

theorem Stmt.assemble_outOfRange {t : Stmt} (h : t.wellFormed = false) : t.assemble = .error .outOfRange :=
  if_neg (ne_true_of_eq_false h)

theorem Stmt.sendStr_wellFormed {bytes : List Nat} (h : ∀ b ∈ bytes, b < 256) :
    (Stmt.sendStr bytes).wellFormed = true :=
  List.all_eq_true.2 fun b hb => decide_eq_true (h b hb)

/-- Settles O53: a statement in range assembles to the encodings of its commands, which the decoder reads back. -/
theorem assembledStatementsDecode : Obligations.AssembledStatementsDecode := by
  refine ⟨fun clk h => ⟨_, Stmt.assemble_wellFormed (decide_eq_true h), decode_encode _⟩,
    ⟨_, Stmt.assemble_wellFormed rfl, decode_encode _⟩,
    fun b h => ⟨_, Stmt.assemble_wellFormed (decide_eq_true h), decode_encode _⟩,
    fun w h => Stmt.assemble_wellFormed (decide_eq_true h),
    fun bytes h => ⟨_, Stmt.assemble_wellFormed (Stmt.sendStr_wellFormed h), ?_⟩,
    fun t h => Stmt.assemble_outOfRange h⟩
  simp only [Stmt.words, List.map_map, Function.comp_def, decode_encode]

/-- A plain ASCII text stands for its characters' codes, up to the closing quote (30_encoding.md R63). -/
theorem sendStrText_plain_text (text : List Char) (h : ∀ c ∈ text, c.toNat < 128 ∧ c ≠ '"' ∧ c ≠ '\\')
    (rest : List Char) : sendStrText (text ++ '"' :: rest) = some (text.map Char.toNat, rest) := by
  induction text with
  | nil => exact sendStrText_close rest
  | cons c cs ih =>
    obtain ⟨⟨ha, hq, hb⟩, hcs⟩ := List.forall_mem_cons.1 h
    rw [List.cons_append, sendStrText_plain hq hb ha, ih hcs]
    rfl

/-- The keyword is split off before the quote, whatever follows it. -/
theorem parseLine_sendStr (rest : List Char) :
    parseLine ("SENDSTR \"".toList ++ rest) = (parseSendStr ('"' :: rest)).map some := rfl

/-- Settles O54: the text between the quotes is read character by character, each a byte in range. -/
theorem sendStrLineSendsEachCharacter : Obligations.SendStrLineSendsEachCharacter := by
  intro text h
  have hparse : parseLine ("SENDSTR \"".toList ++ text ++ ['"']) = .ok (some (.sendStr (text.map Char.toNat))) := by
    rw [List.append_assoc, parseLine_sendStr, parseSendStr, sendStrText_plain_text text h]
    rfl
  have hbytes : ∀ b ∈ text.map Char.toNat, b < 256 := by
    intro b hb
    obtain ⟨c, hc, rfl⟩ := List.mem_map.1 hb
    obtain ⟨hascii, -⟩ := h c hc
    exact hascii.trans (by decide)
  simp only [assembleLine, hparse, Stmt.assemble_wellFormed (Stmt.sendStr_wellFormed hbytes), Stmt.words, List.map_map,
    Function.comp_def]

end Sys2Proof
end

section
/-! The register access statements (40_register_access.md): the two bus primitives as whole next states, and where the value of
a read comes from. -/

namespace Sys2Proof.Machine

/-! ### Where the value of a read comes from (40_register_access.md R68, 20_memory.md R42, log 3) -/

theorem deviceAnswer_scripted {s : State} {r : Word} {rs : List Word} (addr : Nat) (h : s.device.answers = r :: rs) :
    s.deviceAnswer addr = r := by
  simp only [State.deviceAnswer, h]

theorem deviceAnswer_steady {s : State} {r : Word} (addr : Nat) (ha : s.device.answers = [])
    (hs : s.device.steady = some r) : s.deviceAnswer addr = r := by
  simp only [State.deviceAnswer, ha, hs]

theorem deviceAnswer_free {s : State} (addr : Nat) (ha : s.device.answers = []) (hs : s.device.steady = none) :
    s.deviceAnswer addr = Config.deviceDraw s.draws s.history addr := by
  simp only [State.deviceAnswer, ha, hs]

/-! ### The bus primitives as whole next states (40_register_access.md R67, R68) -/

theorem mmioWrite32_eq (off : Nat) (v : Word) (s : State) :
    mmioWrite32 off v s = { s with history := s.history ++ [writeEvent s.params off v] } := rfl

/-- The event records the value the read returns; the Device's script and the counter of draws are the environment's. -/
theorem mmioRead32_snd_eq (off : Nat) (s : State) :
    (mmioRead32 off s).2 = { s with
      history := s.history ++ [readEvent s.params off (mmioRead32 off s).1]
      device := { s.device with answers := s.device.answers.tail }
      draws := s.draws + 1 } := rfl

/-- Settles O30: the appended event is the register's write event, whose fields are the ones written out. -/
theorem mmioWriteAppendsOneEvent : Obligations.MmioWriteAppendsOneEvent :=
  fun s off v => mmioWrite32_eq off v s

/-- Settles O31: the next state records the returned value, which is the Device's answer in each of its three cases. -/
theorem mmioReadReturnsTheDevicesAnswer : Obligations.MmioReadReturnsTheDevicesAnswer :=
  fun s off => ⟨mmioRead32_snd_eq off s, fun _ _ h => deviceAnswer_scripted _ h, fun _ ha hs => deviceAnswer_steady _ ha hs,
    fun ha hs => deviceAnswer_free _ ha hs⟩

end Sys2Proof.Machine
end

section
/-! The configuration statements (41_configuration.md): the divisor and its bytes, CONFIGURE at its acceptance and through its
eight writes, when `configured` is written, and that the accepted words prescribe the history. -/

namespace Sys2Proof.Machine

/-! ### The divisor and its bytes (41_configuration.md R71, R72) -/

theorem divDenom_toNat : divDenom.toNat = 1843200 := rfl

theorem divisorOf_toNat (clk : Word) : (divisorOf clk).toNat = clk.toNat / 1843200 := by
  rw [divisorOf, BitVec.toNat_udiv, divDenom_toNat]

/-- Settles O26: division of words is the truncating division of their values, and DIV_DENOM is 1843200. -/
theorem divisorTruncates : Obligations.DivisorTruncates := divisorOf_toNat

theorem divisorOf_eq_ofNat (clk : Word) : divisorOf clk = BitVec.ofNat 32 (clk.toNat / 1843200) := by
  rw [← divisorOf_toNat, BitVec.ofNat_toNat, BitVec.setWidth_eq]

theorem divisorOf_le (clk : Word) : (divisorOf clk).toNat ≤ 2330 := by
  have := clk.isLt
  rw [divisorOf_toNat]
  omega

theorem dllVal_toNat (d : Word) : (dllVal d).toNat = d.toNat % 256 := by
  rw [dllVal, BitVec.toNat_setWidth_of_le (by decide), BitVec.extractLsb'_toNat, Nat.shiftRight_zero]

theorem dlmVal_toNat (d : Word) : (dlmVal d).toNat = d.toNat / 256 % 256 := by
  rw [dlmVal, BitVec.toNat_setWidth_of_le (by decide), BitVec.extractLsb'_toNat, Nat.shiftRight_eq_div_pow]

/-- Settles O27: a divisor of at most 2330 fits the two bytes. -/
theorem divisorBytesLoseNothing : Obligations.DivisorBytesLoseNothing := by
  intro clk
  have hle := divisorOf_le clk
  rw [dllVal_toNat, dlmVal_toNat]
  refine ⟨rfl, ?_, hle, ?_⟩ <;> omega

/-! ### CONFIGURE at its acceptance (41_configuration.md R73) -/

/-- Settles O13: on a ready port the gate passes the command, whose divisor is the truncated quotient. -/
theorem configureAcceptanceLatchesDivisor : Obligations.ConfigureAcceptanceLatchesDivisor := by
  intro s clk ha hp
  rw [← divisorOf_eq_ofNat]
  exact whenReady_idle (configureAccept clk) ha hp

/-- Settles O16: the gate answers the accepted state in IDLE and the same state while BUSY. -/
theorem configureFrame : Obligations.ConfigureFrame := by
  intro s t clk h
  obtain ⟨-, rfl⟩ := whenReady_next.1 h
  by_cases hp : s.phase = .idle
  · rw [if_pos hp]
    exact ⟨⟨rfl, rfl, rfl, rfl, rfl, rfl⟩, rfl, rfl, rfl, rfl, fun hn => absurd hp hn⟩
  · rw [if_neg hp]
    exact ⟨⟨rfl, rfl, rfl, rfl, rfl, rfl⟩, rfl, rfl, rfl, rfl, fun _ => ⟨rfl, rfl, rfl, rfl, rfl, rfl, rfl⟩⟩

/-! ### One CFG step (41_configuration.md R74, R75) -/

theorem step_cfg {s : State} (ha : s.params.Admitted) (hpr : s.Proceeds) (hp : s.phase = .cfg) :
    step s = .next (cfgStep s.popMove) := by
  obtain ⟨hm, hd⟩ := hpr
  rw [step_block ha hm (by simp [hp]), blockStep_cfg (s := s.popMove) hd hp]

/-- A CFG step as a whole next state, its row taken from the table. -/
theorem cfgStep_eq (s : State) :
    cfgStep s = { s with
      history := s.history ++ [writeEvent s.params (cfgRow s.params s.divisor s.stepIx).1
        (cfgRow s.params s.divisor s.stepIx).2]
      stepIx := if s.stepIx = 7 then s.stepIx else s.stepIx + 1
      phase := if s.stepIx = 7 then .idle else s.phase
      configured := if s.stepIx = 7 then true else s.configured } := by
  by_cases h7 : s.stepIx = 7
  · simp only [cfgStep, if_pos h7]; rfl
  · simp only [cfgStep, if_neg h7]; rfl

/-- The counter of rows is 7 as a word exactly when it is as a number. -/
theorem stepIx_eq_seven_iff (k : BitVec 3) : k = 7 ↔ k.toNat = 7 := BitVec.toNat_eq

/-- Settles O18: the step is the CFG step, whose row stands in the table. -/
theorem cfgStepWritesItsRow : Obligations.CfgStepWritesItsRow := by
  intro s ha hpr hp
  refine ⟨_, _, cfgTable_getElem? s.params s.divisor s.stepIx, ?_⟩
  rw [step_cfg ha hpr hp, cfgStep_eq]
  simp only [stepIx_eq_seven_iff, BitVec.ofNat_add, BitVec.ofNat_toNat, BitVec.setWidth_eq, ← hp]
  rfl

/-! ### CONFIGURE through its eight writes (41_configuration.md R74, R77) -/

theorem popMove_of_agenda_nil {s : State} (h : s.agenda = []) : s.popMove = s := by
  rw [State.popMove, h, List.tail_nil, ← h]

theorem proceeds_of_agenda_nil {s : State} (h : s.agenda = []) (hd : s.device.stalled = false) : s.Proceeds :=
  ⟨by rw [State.nextMove, h]; rfl, hd⟩

theorem step_cfg_of_agenda_nil {s : State} (ha : s.params.Admitted) (hg : s.agenda = []) (hd : s.device.stalled = false)
    (hp : s.phase = .cfg) : step s = .next (cfgStep s) := by
  rw [step_cfg ha (proceeds_of_agenda_nil hg hd) hp, popMove_of_agenda_nil hg]

/-- From row `7 - n`, `n + 1` steps write the rows that are left and end the command. -/
theorem runSteps_cfg (n : Nat) {s : State} (ha : s.params.Admitted) (hg : s.agenda = []) (hd : s.device.stalled = false)
    (hp : s.phase = .cfg) (hk : s.stepIx.toNat + n = 7) :
    runSteps (n + 1) s = .next { s with
      stepIx := 7
      phase := .idle
      configured := true
      history := s.history ++
        ((cfgTable s.params s.divisor).drop s.stepIx.toNat).map fun row => writeEvent s.params row.1 row.2 } := by
  induction n generalizing s with
  | zero =>
    have h7 : s.stepIx = 7 := (stepIx_eq_seven_iff _).2 hk
    rw [runSteps_succ 0 (step_cfg_of_agenda_nil ha hg hd hp), cfgStep_eq, h7]
    rfl
  | succ n ih =>
    have h7 : s.stepIx ≠ 7 := by bv_omega
    have hsucc : (s.stepIx + 1).toNat = s.stepIx.toNat + 1 := by bv_omega
    rw [runSteps_succ (n + 1) (step_cfg_of_agenda_nil ha hg hd hp), cfgStep_inner h7, drop_cfgTable, List.map_cons,
      List.append_cons, ← hsucc]
    exact ih ha hg hd hp (by rw [hsucc]; omega)

/-- Settles O22: the first step accepts the command, the next eight write the table from row 0. -/
theorem configureRunsToItsEnd : Obligations.ConfigureRunsToItsEnd := by
  intro s clk ws ha hg hd hp hw
  obtain ⟨hm, -⟩ := proceeds_of_agenda_nil hg hd
  have hstep : step s = .next (configureAccept clk s.popWord) := by
    rw [step_accept ha hm hp hw, popMove_of_agenda_nil hg, acceptWord_of_decode _ (decode_encode _)]
    exact whenReady_idle (s := s.popWord) _ ha hp
  rw [runSteps_succ 8 hstep, runSteps_cfg 7 (s := configureAccept clk s.popWord) ha hg hd rfl rfl, ← divisorOf_eq_ofNat]
  simp only [configureAccept, State.popWord, hw, List.tail_cons, ← hp]
  rfl

/-! ### When `configured` is written (41_configuration.md R76) -/

theorem acceptWord_configured {w : Cmd} {s t : State} (ha : s.params.Admitted) (hp : s.phase = .idle)
    (h : acceptWord w s = .next t) : t.configured = s.configured := by
  obtain ⟨_, -, rfl⟩ | ⟨_, -, rfl⟩ | ⟨_, -, -, rfl⟩ | ⟨_, -, -, rfl⟩ := acceptWord_cases ha hp h <;> simp

/-- The step that writes row 7: the Device completes it. -/
abbrev State.WritesLastRow (s : State) : Prop := s.Proceeds ∧ s.phase = .cfg ∧ s.stepIx = 7

theorem step_last_row {s t : State} (h : step s = .next t) (hl : s.WritesLastRow) :
    t.configured = true ∧ t.history = s.history ++ [writeEvent s.params s.params.offMdr s.params.valMdrExit] := by
  obtain ⟨hpr, hp, h7⟩ := hl
  rw [step_next_unique h (step_cfg (admitted_of_step h) hpr hp), cfgStep_last (s := s.popMove) h7]
  exact ⟨rfl, rfl⟩

theorem blockStep_configured {s : State} (hp : s.phase ≠ .idle)
    (hl : ¬(s.device.stalled = false ∧ s.phase = .cfg ∧ s.stepIx = 7)) : (blockStep s).configured = s.configured := by
  obtain ⟨-, h⟩ | ⟨-, -, -, h⟩ | ⟨hd, hc, h7, -⟩ | ⟨-, -, -, h⟩ | ⟨-, -, -, h⟩ | ⟨-, -, h⟩ := blockStep_cases s hp
  case inr.inr.inl => exact absurd ⟨hd, hc, h7⟩ hl
  all_goals simp [h]

/-- No step but the write of row 7 and a reset writes `configured`. -/
theorem step_keeps_configured {s t : State} (h : step s = .next t) (hl : ¬s.WritesLastRow)
    (hr : s.nextMove ≠ .resetBlock) : t.configured = s.configured := by
  obtain ⟨ha, ⟨hm, -⟩ | ⟨_, -, rfl⟩ | ⟨-, rfl⟩ | ⟨-, -, -, rfl⟩ | ⟨-, hp, _, _, -, haccept⟩ | ⟨hm, hp, rfl⟩⟩ := step_cases h
  · exact absurd hm hr
  · exact s.popMove_configured
  · exact s.popMove.sampleStatus_configured
  · exact s.popMove_configured
  · exact acceptWord_configured (s := s.popMove.popWord) ha hp haccept
  · exact blockStep_configured (s := s.popMove) hp fun ⟨hd, hrow⟩ => hl ⟨⟨hm, hd⟩, hrow⟩

theorem step_reset_configured {s t : State} (h : step s = .next t) (hm : s.nextMove = .resetBlock) :
    t.configured = false := by
  rw [step_next_unique h (step_reset (admitted_of_step h) hm), State.resetBlock_configured]

/-- Settles O35: a step that changes `configured` is the write of row 7, which sets it, or a reset, which clears it. -/
theorem configuredSetOnlyByLastRow : Obligations.ConfiguredSetOnlyByLastRow := by
  refine fun s t h => ⟨step_last_row h, fun hs ht => ?set, fun hs ht => ?cleared, step_reset_configured h⟩
  case set =>
    have hr : s.nextMove ≠ .resetBlock := fun hm => Bool.false_ne_true ((step_reset_configured h hm).symm.trans ht)
    by_contra hl
    have hkeep := step_keeps_configured h hl hr
    simp [hs, ht] at hkeep
  case cleared =>
    by_contra hr
    by_cases hl : s.WritesLastRow
    · obtain ⟨htrue, -⟩ := step_last_row h hl
      exact Bool.false_ne_true (ht.symm.trans htrue)
    · have hkeep := step_keeps_configured h hl hr
      simp [hs, ht] at hkeep

/-! ### What the accepted words prescribe, word by word (30_encoding.md R59, 60_exceptions.md R97) -/

/-- Whether a CONFIGURE has run once the words `ws` are accepted. -/
def configuredAfter (configured : Bool) : List Cmd → Bool
  | [] => configured
  | w :: ws =>
    match decode w with
    | .ok (.configure _) => configuredAfter true ws
    | _ => configuredAfter configured ws

theorem configuredAfter_iff (c : Bool) (ws : List Cmd) :
    configuredAfter c ws = true ↔ c = true ∨ ∃ clk, .configure clk ∈ commandsOf c ws := by
  fun_induction commandsOf c ws <;> simp_all [configuredAfter]

theorem commandsOf_append (c : Bool) (ws vs : List Cmd) :
    commandsOf c (ws ++ vs) = commandsOf c ws ++ commandsOf (configuredAfter c ws) vs := by
  fun_induction commandsOf c ws <;> simp_all [configuredAfter, commandsOf]

theorem firstErrorOf_append (c : Bool) (ws vs : List Cmd) :
    firstErrorOf c (ws ++ vs) =
      if firstErrorOf c ws = 0 then firstErrorOf (configuredAfter c ws) vs else firstErrorOf c ws := by
  fun_induction firstErrorOf c ws <;> simp_all [configuredAfter, firstErrorOf]

/-! ### The accepted words prescribe the history, `configured` and `err` (41_configuration.md R77, 42_transmit.md R89, R91) -/

theorem EndedCommand.instr_eq_configure_iff {c : EndedCommand} {clk : Word} :
    c.instr = .configure clk ↔ c = .configure clk := by
  cases c <;> simp [EndedCommand.instr]

/-- The block is configured once a CONFIGURE has ended, and with no command in progress the ended ones are all. -/
theorem configuredAfter_eq_configured {accepted : List Cmd} {ended : List EndedCommand} {configured : Bool}
    (hcmds : commandsOf false accepted = ended.map EndedCommand.instr)
    (hconf : configured = true ↔ ∃ clk, EndedCommand.configure clk ∈ ended) :
    configuredAfter false accepted = configured := by
  rw [Bool.eq_iff_iff, configuredAfter_iff, hconf, hcmds]
  simp [EndedCommand.instr_eq_configure_iff]

theorem explains_of_reset (s : State) : Explains [] s.resetBlock :=
  ⟨[], [], [], nofun, ⟨rfl, rfl⟩, rfl, rfl, ⟨nofun, nofun⟩, rfl⟩

/-- The command of an accepted word, if it has one, is now in progress, with no event yet. -/
theorem acceptWord_inProgress {w : Cmd} {s t : State} (ha : s.params.Admitted) (hp : s.phase = .idle)
    (h : acceptWord w s = .next t) : InProgress t [] (commandsOf s.configured [w]) := by
  obtain ⟨_, hd, rfl⟩ | ⟨clk, hd, rfl⟩ | ⟨b, hd, hc, rfl⟩ | ⟨b, hd, hc, rfl⟩ := acceptWord_cases ha hp h
  · exact (inProgress_idle (by simp [hp]) _ _).2 ⟨rfl, commandsOf_error hd _ _⟩
  · exact (inProgress_cfg rfl _ _).2 ⟨clk, rfl, commandsOf_configure hd _ _, rfl⟩
  · exact (inProgress_idle (by simp [hp]) _ _).2 ⟨rfl, by rw [hc, commandsOf_unconfigured hd]; rfl⟩
  · exact (inProgress_poll rfl _ _).2 ⟨[], nofun, by rw [hc, commandsOf_send hd]; rfl, rfl⟩

theorem acceptWord_err {w : Cmd} {s t : State} (ha : s.params.Admitted) (hp : s.phase = .idle)
    (h : acceptWord w s = .next t) : t.err = if s.err = 0 then firstErrorOf s.configured [w] else s.err := by
  obtain ⟨_, hd, rfl⟩ | ⟨clk, hd, rfl⟩ | ⟨b, hd, hc, rfl⟩ | ⟨b, hd, hc, rfl⟩ := acceptWord_cases ha hp h
  · rw [State.recordError_err, firstErrorOf_error hd]; rfl
  · rw [firstErrorOf_configure hd, firstErrorOf]; simp
  · rw [State.recordError_err, hc, firstErrorOf_unconfigured hd]; rfl
  · rw [hc, firstErrorOf_send hd, firstErrorOf]; simp

/-- The acceptance of a word on a ready port adds the word to those that explain the state. -/
theorem Explains.snoc_of_acceptWord {accepted : List Cmd} {w : Cmd} {s t : State} (h : Explains accepted s)
    (ha : s.params.Admitted) (hp : s.phase = .idle) (hacc : acceptWord w s = .next t) :
    Explains (accepted ++ [w]) t := by
  obtain ⟨ended, events, cmds, hok, hin, hhist, hcmds, hconf, herr⟩ := h
  obtain ⟨rfl, rfl⟩ := (inProgress_idle hp _ _).1 hin
  rw [List.append_nil] at hcmds
  have hafter := configuredAfter_eq_configured hcmds hconf
  refine ⟨ended, [], commandsOf s.configured [w], ?_, acceptWord_inProgress ha hp hacc, ?_, ?_, ?_, ?_⟩
  · rwa [acceptWord_params ha hp hacc]
  · rwa [acceptWord_history ha hp hacc, acceptWord_params ha hp hacc]
  · rw [commandsOf_append, hcmds, hafter]
  · rwa [acceptWord_configured ha hp hacc]
  · rw [acceptWord_err ha hp hacc, firstErrorOf_append, hafter, herr]

/-- The rows of a CONFIGURE written up to row `k` are those before it and then row `k`. -/
theorem take_configureTrace_succ (p : Params) {clk d : Word} (hd : d = divisorOf clk) (k : BitVec 3) :
    (configureTrace p clk).take (k.toNat + 1) =
      (configureTrace p clk).take k.toNat ++ [writeEvent p (cfgRow p d k).1 (cfgRow p d k).2] := by
  rw [hd, configureTrace, ← List.map_take, take_cfgTable_succ, List.map_append, List.map_take]
  rfl

theorem pollTrace_concat (p : Params) (rs : List Word) (r : Word) :
    pollTrace p (rs ++ [r]) = pollTrace p rs ++ [readEvent p p.offLsr r] := pollTrace_append p rs [r]

theorem forall_thre_clear_concat {p : Params} {rs : List Word} {r : Word} (hrs : ∀ q ∈ rs, thre p q = false)
    (hr : thre p r = false) : ∀ q ∈ rs ++ [r], thre p q = false :=
  List.forall_mem_append.2 ⟨hrs, List.forall_mem_singleton.2 hr⟩

/-- A step that completes a transaction of the command in progress and does not end it. -/
theorem Explains.of_appended_event {accepted : List Cmd} {s t : State} (e : BusEvent) (h : Explains accepted s)
    (hin : ∀ events cmds, InProgress s events cmds → InProgress t (events ++ [e]) cmds) (hp : t.params = s.params)
    (hhist : t.history = s.history ++ [e]) (hconf : t.configured = s.configured) (herr : t.err = s.err) :
    Explains accepted t := by
  obtain ⟨ended, events, cmds, hok, hprog, hs, hcmds, hc, he⟩ := h
  exact ⟨ended, events ++ [e], cmds, by rwa [hp], hin _ _ hprog, by rw [hhist, hs, hp, List.append_assoc], hcmds,
    by rwa [hconf], by rwa [herr]⟩

/-- A step whose transaction ends the command in progress. -/
theorem Explains.of_ending_event {accepted : List Cmd} {s t : State} (e : BusEvent) (h : Explains accepted s)
    (hin : ∀ events cmds, InProgress s events cmds →
      ∃ c : EndedCommand, c.Ok s.params ∧ cmds = [c.instr] ∧ events ++ [e] = c.trace s.params ∧
        (t.configured = true ↔ s.configured = true ∨ ∃ clk, c = .configure clk))
    (hidle : t.phase = .idle) (hp : t.params = s.params) (hhist : t.history = s.history ++ [e]) (herr : t.err = s.err) :
    Explains accepted t := by
  obtain ⟨ended, events, cmds, hok, hprog, hs, hcmds, hconf, he⟩ := h
  obtain ⟨c, hc, rfl, htrace, hset⟩ := hin _ _ hprog
  refine ⟨ended ++ [c], [], [], ?_, (inProgress_idle hidle _ _).2 ⟨rfl, rfl⟩, ?_, ?_, ?_, by rwa [herr]⟩
  · simpa [hp, or_imp, forall_and] using ⟨hok, hc⟩
  · rw [hhist, hs, hp, List.append_assoc, htrace]; simp
  · simpa using hcmds
  · rw [hset, hconf]; simp [exists_or, eq_comm]

theorem Explains.of_blockStep {accepted : List Cmd} {s : State} (h : Explains accepted s) (hp : s.phase ≠ .idle) :
    Explains accepted (blockStep s) := by
  obtain ⟨-, heq⟩ | ⟨-, hcfg, h7, heq⟩ | ⟨-, hcfg, h7, heq⟩ | ⟨-, hpoll, hclear, heq⟩ | ⟨-, hpoll, hset, heq⟩ |
    ⟨-, htx, heq⟩ := blockStep_cases s hp <;> rw [heq]
  · exact h
  · refine h.of_appended_event _ (fun events cmds hin => ?_) rfl rfl rfl rfl
    obtain ⟨clk, hdiv, rfl, rfl⟩ := (inProgress_cfg hcfg _ _).1 hin
    have hsucc : (s.stepIx + 1).toNat = s.stepIx.toNat + 1 := by bv_omega
    rw [← take_configureTrace_succ _ hdiv, ← hsucc]
    exact (inProgress_cfg (by exact hcfg) _ _).2 ⟨clk, hdiv, rfl, rfl⟩
  · refine h.of_ending_event _ (fun events cmds hin => ?_) rfl rfl rfl rfl
    obtain ⟨clk, hdiv, rfl, rfl⟩ := (inProgress_cfg hcfg _ _).1 hin
    exact ⟨.configure clk, trivial, rfl, by rw [h7]; rfl, by simp⟩
  · refine h.of_appended_event _ (fun events cmds hin => ?_) rfl rfl rfl rfl
    obtain ⟨clear, hall, rfl, rfl⟩ := (inProgress_poll hpoll _ _).1 hin
    exact (inProgress_poll hpoll _ _).2 ⟨_, forall_thre_clear_concat hall hclear, rfl, (pollTrace_concat ..).symm⟩
  · refine h.of_appended_event _ (fun events cmds hin => ?_) rfl rfl rfl rfl
    obtain ⟨clear, hall, rfl, rfl⟩ := (inProgress_poll hpoll _ _).1 hin
    exact (inProgress_tx rfl _ _).2 ⟨clear, _, hall, hset, rfl, (pollTrace_concat ..).symm⟩
  · refine h.of_ending_event _ (fun events cmds hin => ?_) rfl rfl rfl rfl
    obtain ⟨clear, last, hall, hlast, rfl, rfl⟩ := (inProgress_tx htx _ _).1 hin
    exact ⟨.send s.txData clear last, ⟨hall, hlast⟩, rfl, rfl, by simp⟩

/-- The state on which a step's move is made has the block as it was. -/
theorem Explains.of_popMove {accepted : List Cmd} {s : State} (h : Explains accepted s) : Explains accepted s.popMove :=
  h.congr rfl ⟨rfl, rfl, rfl, rfl, rfl, rfl, rfl⟩

/-- Every step but a reset keeps the state explained, by one word more when it accepts one. -/
theorem Explains.of_step {accepted : List Cmd} {s t : State} (h : Explains accepted s) (hstep : step s = .next t)
    (hr : s.nextMove ≠ .resetBlock) :
    ∃ accepted', Explains accepted' t ∧ accepted' ++ t.hostWords = accepted ++ s.hostWords := by
  obtain ⟨ha, ⟨hm, -⟩ | ⟨_, -, rfl⟩ | ⟨-, rfl⟩ | ⟨-, -, -, rfl⟩ | ⟨hm, hp, w, ws, hw, hacc⟩ | ⟨-, hp, rfl⟩⟩ :=
    step_cases hstep
  · exact absurd hm hr
  · exact ⟨accepted, h.congr rfl ⟨rfl, rfl, rfl, rfl, rfl, rfl, rfl⟩, rfl⟩
  · exact ⟨accepted, h.congr rfl ⟨rfl, rfl, rfl, rfl, rfl, rfl, rfl⟩, rfl⟩
  · exact ⟨accepted, h.of_popMove, rfl⟩
  · have hword : Explains accepted s.popMove.popWord := h.congr rfl ⟨rfl, rfl, rfl, rfl, rfl, rfl, rfl⟩
    refine ⟨accepted ++ [w], hword.snoc_of_acceptWord ha hp hacc, ?_⟩
    rw [step_ready_hostWords hstep hm hp, hw, List.append_assoc]
    rfl
  · exact ⟨accepted, h.of_popMove.of_blockStep hp, congrArg _ (blockStep_hostWords (s := s.popMove) hp)⟩

/-- Settles O48: a reset empties the explanation, and every other step keeps it. -/
theorem historyStaysExplainedByAcceptedWords : Obligations.HistoryStaysExplainedByAcceptedWords := by
  intro accepted s t h hstep
  by_cases hm : s.nextMove = .resetBlock
  · obtain rfl := step_next_unique hstep (step_reset (admitted_of_step hstep) hm)
    exact ⟨[], explains_of_reset _, fun _ => ⟨rfl, rfl⟩, fun hn => absurd hm hn⟩
  · obtain ⟨accepted', hexp, hwords⟩ := h.of_step hstep hm
    exact ⟨accepted', hexp, fun hr => absurd hr hm, fun _ => hwords⟩

end Sys2Proof.Machine
end

section
/-! The transmit statements (42_transmit.md): SEND at its acceptance, one POLL and one TX step, and the whole poll with and
without a Device that shows THRE. -/

namespace Sys2Proof.Machine

/-! ### SEND at its acceptance (42_transmit.md R82, R83) -/

/-- Settles O14: on a ready port the gate passes the command, which on a configured block is SendAccept. -/
theorem sendAcceptanceLatchesByte : Obligations.SendAcceptanceLatchesByte := by
  intro s b ha hp hc
  rw [← sendAccept_configured b hc]
  exact whenReady_idle (sendAccept b) ha hp

/-- Settles O17: in IDLE the gate answers SendAccept or RecordError, by `configured`, and while BUSY the same state. -/
theorem sendFrame : Obligations.SendFrame := by
  intro s t b h
  obtain ⟨-, rfl⟩ := whenReady_next.1 h
  by_cases hp : s.phase = .idle
  · rw [if_pos hp]
    cases hc : s.configured with
    | true =>
      rw [sendAccept_configured b hc]
      exact ⟨⟨rfl, rfl, rfl, rfl, rfl, rfl⟩, rfl, rfl, hc, rfl, fun _ => rfl, nofun, fun hn => absurd hp hn⟩
    | false =>
      rw [sendAccept_unconfigured b hc, recordError_eq]
      exact ⟨⟨rfl, rfl, rfl, rfl, rfl, rfl⟩, rfl, rfl, hc, rfl, nofun, fun _ => ⟨rfl, rfl⟩, fun hn => absurd hp hn⟩
  · rw [if_neg hp]
    exact ⟨⟨rfl, rfl, rfl, rfl, rfl, rfl⟩, rfl, rfl, rfl, rfl, fun _ => rfl, fun _ => ⟨rfl, rfl⟩,
      fun _ => ⟨rfl, rfl, rfl, rfl, rfl, rfl, rfl⟩⟩

/-! ### One POLL step and one TX step (42_transmit.md R84, R86) -/

theorem thre_iff (p : Params) (r : Word) : thre p r = true ↔ r &&& p.maskLsrThre ≠ 0 := decide_eq_true_iff

/-- Settles O19: the step is one LSR read, whose THRE test is all that decides the phase. -/
theorem pollStepReadsLsrOnce : Obligations.PollStepReadsLsrOnce := by
  intro s ha hpr hp
  refine ⟨_, step_poll ha hpr hp, rfl, ?_, rfl, rfl, rfl, rfl, rfl, rfl, rfl, rfl, rfl⟩
  simp only [thre_iff]

theorem step_tx {s : State} (ha : s.params.Admitted) (hpr : s.Proceeds) (hp : s.phase = .tx) :
    step s = .next (txStep s.popMove) := by
  obtain ⟨hm, hd⟩ := hpr
  rw [step_block ha hm (by simp [hp]), blockStep_tx (s := s.popMove) hd hp]

/-- Settles O20: the step is the TX step, whose value is the byte as a number. -/
theorem txStepWritesThr : Obligations.TxStepWritesThr := by
  intro s ha hpr hp
  rw [step_tx ha hpr hp, BitVec.ofNat_toNat]
  rfl

/-! ### A run of clear polls (42_transmit.md R84, R87) -/

/-- The Device's first `n` answers to a block that reads LSR again and again. -/
def State.lsrAnswers (s : State) (n : Nat) : List Word := (List.range n).map s.nthAnswer

/-- The state after `n` reads of LSR: the block's history has their events, and the rest of it is as it was. -/
def State.afterLsrReads (s : State) (n : Nat) : State :=
  { s with
    history := s.history ++ pollTrace s.params (s.lsrAnswers n)
    device := { s.device with answers := s.device.answers.drop n }
    draws := s.draws + n }

@[simp] theorem State.lsrAnswers_length (s : State) (n : Nat) : (s.lsrAnswers n).length = n := by
  simp [State.lsrAnswers]

theorem State.lsrAnswers_succ (s : State) (n : Nat) :
    s.lsrAnswers (n + 1) = s.nthAnswer 0 :: (mmioRead32 s.params.offLsr s).2.lsrAnswers n := by
  simp only [State.lsrAnswers, List.range_succ_eq_map, List.map_cons, List.map_map]
  rfl

theorem State.lsrAnswers_clear {s : State} {n : Nat} (h : ∀ k < n, thre s.params (s.nthAnswer k) = false) :
    ∀ r ∈ s.lsrAnswers n, thre s.params r = false :=
  List.forall_mem_map.2 fun k hk => h k (List.mem_range.1 hk)

@[simp] theorem State.afterLsrReads_zero (s : State) : s.afterLsrReads 0 = s := by
  simp [State.afterLsrReads, State.lsrAnswers]

theorem State.afterLsrReads_succ (s : State) (n : Nat) :
    s.afterLsrReads (n + 1) = (mmioRead32 s.params.offLsr s).2.afterLsrReads n := by
  simp only [State.afterLsrReads, s.lsrAnswers_succ, pollTrace_cons, mmioRead32_snd_eq, mmioRead32_fst, List.append_assoc,
    List.singleton_append, List.drop_tail, Nat.add_assoc, Nat.add_comm 1 n]
  rfl

/-- After `n` reads the Device's next answer is its `n`-th. -/
theorem State.afterLsrReads_nthAnswer_zero (s : State) (n : Nat) : (s.afterLsrReads n).nthAnswer 0 = s.nthAnswer n := by
  induction n generalizing s with
  | zero => rw [s.afterLsrReads_zero]
  | succ n ih => rw [s.afterLsrReads_succ, ih]; rfl

/-- A poll that reads THRE clear is the read alone: the phase stays POLL. -/
theorem step_poll_clear {s : State} (ha : s.params.Admitted) (hg : s.agenda = []) (hd : s.device.stalled = false)
    (hp : s.phase = .poll) (hclear : thre s.params (s.nthAnswer 0) = false) :
    step s = .next (mmioRead32 s.params.offLsr s).2 := by
  obtain ⟨hm, -⟩ := proceeds_of_agenda_nil hg hd
  rw [step_block ha hm (by simp [hp]), popMove_of_agenda_nil hg, blockStep_poll hd hp, pollStep_clear hclear]

/-- As long as the answers are clear, each step is one read of LSR. -/
theorem runSteps_polls (n m : Nat) {s : State} (ha : s.params.Admitted) (hg : s.agenda = [])
    (hd : s.device.stalled = false) (hp : s.phase = .poll) (hclear : ∀ k < n, thre s.params (s.nthAnswer k) = false) :
    runSteps (n + m) s = runSteps m (s.afterLsrReads n) := by
  induction n generalizing s with
  | zero => rw [Nat.zero_add, s.afterLsrReads_zero]
  | succ n ih =>
    have hstep := step_poll_clear ha hg hd hp (hclear 0 n.succ_pos)
    rw [Nat.add_right_comm, runSteps_succ (n + m) hstep, s.afterLsrReads_succ]
    exact ih ha hg hd hp fun k hk => hclear (k + 1) (Nat.succ_lt_succ hk)

/-! ### The end of a SEND, and the SEND without end (42_transmit.md R87, R89) -/

/-- The last two steps of a SEND: the read that shows THRE set, and the write of THR. -/
theorem runSteps_last_poll {s : State} (ha : s.params.Admitted) (hg : s.agenda = []) (hd : s.device.stalled = false)
    (hp : s.phase = .poll) (hset : thre s.params (s.nthAnswer 0) = true) :
    runSteps 2 s = .next (txStep { (mmioRead32 s.params.offLsr s).2 with phase := .tx }) := by
  have hpoll : step s = .next { (mmioRead32 s.params.offLsr s).2 with phase := .tx } := by
    rw [step_poll ha (proceeds_of_agenda_nil hg hd) hp, popMove_of_agenda_nil hg, hset, if_pos rfl]
  have htx := step_tx (s := { (mmioRead32 s.params.offLsr s).2 with phase := .tx }) ha (proceeds_of_agenda_nil hg hd) rfl
  rw [popMove_of_agenda_nil (by exact hg)] at htx
  rw [runSteps_succ 1 hpoll, runSteps_succ 0 htx, runSteps]

/-- Settles O23: the polls before the first answer with THRE are clear, and that answer's poll and the THR write end the
command. -/
theorem sendEndsWhenDeviceEventuallyReady : Obligations.SendEndsWhenDeviceEventuallyReady := by
  intro s ha hg hd hp hready
  obtain ⟨n, hset, hclear⟩ : ∃ n, thre s.params (s.nthAnswer n) = true ∧
      ∀ k < n, thre s.params (s.nthAnswer k) = false :=
    ⟨Nat.find hready, Nat.find_spec hready, fun k hk => eq_false_of_ne_true (Nat.find_min hready hk)⟩
  have hrun := runSteps_last_poll (s := s.afterLsrReads n) ha hg hd hp (by rwa [State.afterLsrReads_nthAnswer_zero])
  rw [← runSteps_polls n 2 ha hg hd hp hclear] at hrun
  have hsteps := congrArg (fun k => runSteps (k + 2) s) (s.lsrAnswers_length n)
  refine ⟨s.lsrAnswers n, s.nthAnswer n, _, hsteps.trans hrun, rfl, State.lsrAnswers_clear hclear, hset, ?_,
    rfl, rfl, rfl⟩
  rw [EndedCommand.trace, pollTrace_concat, ← s.afterLsrReads_nthAnswer_zero, ← List.append_assoc, ← List.append_assoc]
  rfl

/-- Settles O24: every answer is clear, so any number of steps is that number of reads. -/
theorem sendPollsForEverWithoutThre : Obligations.SendPollsForEverWithoutThre := by
  intro s ha hg hd hp hnever n
  have hclear : ∀ k < n, thre s.params (s.nthAnswer k) = false :=
    fun k _ => eq_false_of_ne_true fun hset => hnever ⟨k, hset⟩
  have hpoll : (s.afterLsrReads n).phase = .poll := hp
  exact ⟨s.afterLsrReads n, s.lsrAnswers n, runSteps_polls n 0 ha hg hd hp hclear, hpoll, status_busy (by simp [hpoll]),
    rfl, s.lsrAnswers_length n, State.lsrAnswers_clear hclear, rfl⟩

/-- A Device with no script and a steady answer answers every read with it. -/
theorem nthAnswer_steady (n : Nat) {s : State} {r : Word} (ha : s.device.answers = []) (hs : s.device.steady = some r) :
    s.nthAnswer n = r := by
  induction n generalizing s with
  | zero => exact deviceAnswer_steady _ ha hs
  | succ n ih => exact ih (by rw [mmioRead32_device, ha]; rfl) hs

/-- Settles O25: the answer 0 has no THRE bit, so the run is the endless poll of O24. -/
theorem endlessPollIsAdmitted : Obligations.EndlessPollIsAdmitted := by
  intro s ha hg hp hdev
  have hnever : ¬DeviceEventuallyReady s := by
    rintro ⟨n, hset⟩
    rw [nthAnswer_steady n (by rw [hdev]) (by rw [hdev]), thre_iff] at hset
    exact hset BitVec.zero_and
  refine ⟨hnever, fun n => ?_⟩
  obtain ⟨t, answers, hrun, hpoll, -, -, hlen, -, hhist⟩ :=
    sendPollsForEverWithoutThre s ha hg (by rw [hdev]) hp hnever n
  exact ⟨t, hrun, hpoll, by rw [hhist, List.length_append, pollTrace, List.length_map, hlen]⟩

end Sys2Proof.Machine
end

section
/-! The exception statements (60_exceptions.md): RecordError and NOT_CONFIGURED, when `err` is written, that the state invariant
is kept, that no step faults, and that the blocks of a platform share no state. -/

namespace Sys2Proof.Machine

/-! ### RecordError and NOT_CONFIGURED (60_exceptions.md R95, R97) -/

theorem recordError_err_ne_zero (s : State) (c : CmdError) : (s.recordError c).err ≠ 0 := by
  by_cases he : s.err = 0
  · rw [recordError_of_none c he]; exact c.code_ne_zero
  · rwa [recordError_of_recorded c he]

/-- Settles O32: RecordError as a whole next state; no error has the code 0. -/
theorem recordErrorKeepsTheFirst : Obligations.RecordErrorKeepsTheFirst :=
  fun s c => ⟨recordError_eq s c, recordError_err_ne_zero s c⟩

/-- Settles O15: on a ready port the gate passes the command, which on an unconfigured block is RecordError alone. -/
theorem unconfiguredSendOnlyRecordsNotConfigured : Obligations.UnconfiguredSendOnlyRecordsNotConfigured := by
  intro s b ha hp hc
  have hsend : exec (.send b) s = .next (sendAccept b s) := whenReady_idle (sendAccept b) ha hp
  rw [hsend, sendAccept_unconfigured b hc, recordError_eq]
  rfl

/-! ### Every step keeps the state invariant (60_exceptions.md R93, R95) -/

/-- The invariant speaks of the block and its parameters alone. -/
theorem State.Inv.congr {s t : State} (h : s.Inv) (hp : t.params = s.params) (hb : SameBlock s t) : t.Inv := by
  obtain ⟨herr, hdiv, hsend, hstep, hevents⟩ := h
  obtain ⟨b1, b2, b3, -, b5, b6, b7⟩ := hb
  constructor
  · rwa [b6]
  · rwa [b3]
  · rwa [b1, b5]
  · rwa [b1, b2, b5]
  · rwa [b7, hp]

theorem State.Inv.of_resetBlock (s : State) : s.resetBlock.Inv :=
  (resetWith_inv s.params).congr rfl ⟨rfl, rfl, rfl, rfl, rfl, rfl, rfl⟩

theorem CmdError.code_le_two (c : CmdError) : c.code.toNat ≤ 2 := by cases c <;> decide

theorem State.Inv.of_recordError {s : State} (h : s.Inv) (c : CmdError) : (s.recordError c).Inv := by
  by_cases he : s.err = 0
  · rw [recordError_of_none c he]
    exact { h with errLegal := c.code_le_two }
  · rwa [recordError_of_recorded c he]

/-- The acceptance of a word on a ready port keeps the invariant: CONFIGURE's divisor is in range, and SEND starts only on a
configured block. -/
theorem State.Inv.of_acceptWord {w : Cmd} {s t : State} (h : s.Inv) (ha : s.params.Admitted) (hp : s.phase = .idle)
    (hacc : acceptWord w s = .next t) : t.Inv := by
  obtain ⟨_, -, rfl⟩ | ⟨clk, -, rfl⟩ | ⟨_, -, -, rfl⟩ | ⟨_, -, hc, rfl⟩ := acceptWord_cases ha hp hacc
  · exact h.of_recordError _
  · exact { h with divisorRange := divisorOf_le clk, sendConfigured := nofun, stepOutsideCfg := (absurd rfl ·) }
  · exact h.of_recordError _
  · exact { h with sendConfigured := fun _ => hc, stepOutsideCfg := fun _ => h.stepOutsideCfg (by simp [hp]) }

/-- A Block step adds no event but one with one of the seven registers (10_state.md R22). -/
theorem blockStep_eventsOk {s : State} (hp : s.phase ≠ .idle) (h : ∀ e ∈ s.history, EventOk s.params e) :
    ∀ e ∈ (blockStep s).history, EventOk (blockStep s).params e := by
  rw [blockStep_params hp]
  cases hd : s.device.stalled with
  | true => rwa [blockStep_stalled hd]
  | false =>
    obtain ⟨e, he, hhist⟩ := blockStep_appends_event hd hp
    rw [hhist]
    exact List.forall_mem_append.2 ⟨h, List.forall_mem_singleton.2 he⟩

/-- A Block step keeps the invariant: CFG is left at row 7 with `configured` set, and the poll and TX steps leave `step` as
`configured` says. -/
theorem State.Inv.of_blockStep {s : State} (h : s.Inv) (hp : s.phase ≠ .idle) : (blockStep s).Inv := by
  have hevents := blockStep_eventsOk hp h.eventsOk
  obtain ⟨-, heq⟩ | ⟨-, hcfg, -, heq⟩ | ⟨-, -, h7, heq⟩ | ⟨-, -, -, heq⟩ | ⟨-, hpoll, -, heq⟩ | ⟨-, htx, heq⟩ :=
    blockStep_cases s hp <;> rw [heq] at hevents ⊢
  · exact h
  · exact { h with eventsOk := hevents, stepOutsideCfg := (absurd hcfg ·) }
  · exact { h with eventsOk := hevents, sendConfigured := nofun, stepOutsideCfg := fun _ => h7 }
  · exact { h with eventsOk := hevents }
  · exact { h with
      eventsOk := hevents
      sendConfigured := fun _ => h.sendConfigured (.inl hpoll)
      stepOutsideCfg := fun _ => h.stepOutsideCfg (by simp [hpoll]) }
  · exact { h with
      eventsOk := hevents
      sendConfigured := nofun
      stepOutsideCfg := fun _ => h.stepOutsideCfg (by simp [htx]) }

/-- Settles O46, by the cases of one step: reset, the environment's moves, a wait, the acceptance of a word, a Block step. -/
theorem stateInvariantKeptByEveryStep : Obligations.StateInvariantKeptByEveryStep := by
  intro s t h hstep
  obtain ⟨ha, ⟨-, rfl⟩ | ⟨_, -, rfl⟩ | ⟨-, rfl⟩ | ⟨-, -, -, rfl⟩ | ⟨-, hp, _, _, -, hacc⟩ | ⟨-, hp, rfl⟩⟩ := step_cases hstep
  · exact .of_resetBlock _
  · exact h.congr rfl ⟨rfl, rfl, rfl, rfl, rfl, rfl, rfl⟩
  · exact h.congr rfl ⟨rfl, rfl, rfl, rfl, rfl, rfl, rfl⟩
  · exact h.congr rfl ⟨rfl, rfl, rfl, rfl, rfl, rfl, rfl⟩
  · have hword : s.popMove.popWord.Inv := h.congr rfl ⟨rfl, rfl, rfl, rfl, rfl, rfl, rfl⟩
    exact hword.of_acceptWord ha hp hacc
  · have hmove : s.popMove.Inv := h.congr rfl ⟨rfl, rfl, rfl, rfl, rfl, rfl, rfl⟩
    exact hmove.of_blockStep hp

/-! ### When `err` is written (60_exceptions.md R93 to R98) -/

/-- No Block step records an error (60_exceptions.md R93). -/
theorem blockStep_err {s : State} (hp : s.phase ≠ .idle) : (blockStep s).err = s.err := by
  obtain ⟨-, h⟩ | ⟨-, -, -, h⟩ | ⟨-, -, -, h⟩ | ⟨-, -, -, h⟩ | ⟨-, -, -, h⟩ | ⟨-, -, h⟩ := blockStep_cases s hp <;>
    simp [h]

/-- A step that accepts a word. -/
abbrev State.Accepts (s : State) (w : Cmd) (ws : List Cmd) : Prop :=
  s.nextMove = .proceed ∧ s.phase = .idle ∧ s.hostWords = w :: ws

/-- No step but the acceptance of a word and a reset writes `err`. -/
theorem step_keeps_err {s t : State} (h : step s = .next t) (hr : s.nextMove ≠ .resetBlock)
    (hn : ∀ w ws, ¬s.Accepts w ws) : t.err = s.err := by
  obtain ⟨-, ⟨hm, -⟩ | ⟨_, -, rfl⟩ | ⟨-, rfl⟩ | ⟨-, -, -, rfl⟩ | ⟨hm, hp, w, ws, hw, -⟩ | ⟨-, hp, rfl⟩⟩ := step_cases h
  · exact absurd hm hr
  · exact s.popMove_err
  · exact s.popMove.sampleStatus_err
  · exact s.popMove_err
  · exact absurd ⟨hm, hp, hw⟩ (hn w ws)
  · exact blockStep_err (s := s.popMove) hp

theorem acceptWord_of_step {s t : State} {w : Cmd} {ws : List Cmd} (h : step s = .next t) (hacc : s.Accepts w ws) :
    acceptWord w s.popMove.popWord = .next t := by
  obtain ⟨hm, hp, hw⟩ := hacc
  rw [← step_accept (admitted_of_step h) hm hp hw, h]

theorem step_reset_err {s t : State} (h : step s = .next t) (hm : s.nextMove = .resetBlock) : t.err = 0 := by
  rw [step_next_unique h (step_reset (admitted_of_step h) hm), State.resetBlock_err]

/-- A recorded error stays, whatever word is accepted (60_exceptions.md R97, R98). -/
theorem step_keeps_recorded_err {s t : State} (h : step s = .next t) (he : s.err ≠ 0) (hr : s.nextMove ≠ .resetBlock) :
    t.err = s.err := by
  by_cases hacc : ∃ w ws, s.Accepts w ws
  · obtain ⟨w, ws, hacc⟩ := hacc
    have haccept := acceptWord_of_step h hacc
    have ha := admitted_of_step h
    obtain ⟨-, hp, -⟩ := hacc
    exact (acceptWord_err (s := s.popMove.popWord) ha hp haccept).trans (if_neg he)
  · exact step_keeps_err h hr fun w ws hw => hacc ⟨w, ws, hw⟩

/-- Settles O33: a reset clears `err`, and every other step keeps a recorded error. -/
theorem errIsStickyUntilReset : Obligations.ErrIsStickyUntilReset :=
  fun _ _ h he => ⟨step_keeps_recorded_err h he, step_reset_err h⟩

/-- A word whose acceptance records an error is illegal or a SEND without configuration (60_exceptions.md R94 to R96). -/
theorem acceptWord_records_error {w : Cmd} {s t : State} (ha : s.params.Admitted) (hp : s.phase = .idle)
    (h : acceptWord w s = .next t) (hs : s.err = 0) (ht : t.err ≠ 0) :
    t.phase = .idle ∧
      ((IllegalWord w ∧ t.err = 1) ∨ ((∃ b, decode w = .ok (.send b)) ∧ s.configured = false ∧ t.err = 2)) := by
  obtain ⟨e, hd, rfl⟩ | ⟨_, -, rfl⟩ | ⟨b, hd, hc, rfl⟩ | ⟨_, -, -, rfl⟩ := acceptWord_cases ha hp h
  · rw [recordError_of_none _ hs]
    exact ⟨hp, .inl ⟨(decode_error_iff_illegalWord w).1 ⟨e, hd⟩, rfl⟩⟩
  · exact absurd hs ht
  · rw [recordError_of_none _ hs]
    exact ⟨hp, .inr ⟨⟨b, hd⟩, hc, rfl⟩⟩
  · exact absurd hs ht

/-- Settles O34: a step that makes `err` nonzero is no reset, so it is the acceptance of a word, and of an erroneous one. -/
theorem errIsWrittenOnlyByErroneousWords : Obligations.ErrIsWrittenOnlyByErroneousWords := by
  intro s t h hs ht
  have hr : s.nextMove ≠ .resetBlock := fun hm => ht (step_reset_err h hm)
  obtain ⟨w, ws, hacc⟩ : ∃ w ws, s.Accepts w ws := by
    by_contra hn
    exact ht ((step_keeps_err h hr fun w ws hw => hn ⟨w, ws, hw⟩).trans hs)
  have haccept := acceptWord_of_step h hacc
  have ha := admitted_of_step h
  obtain ⟨hm, hp, hw⟩ := hacc
  obtain ⟨hidle, hcause⟩ := acceptWord_records_error (s := s.popMove.popWord) ha hp haccept hs ht
  exact ⟨hm, hp, hidle, acceptWord_history (s := s.popMove.popWord) ha hp haccept, w, ws, hw, hcause⟩

/-! ### No step faults or is refused (60_exceptions.md R92, R107) -/

theorem exec_answers {s : State} (i : Instr) (ha : s.params.Admitted) : ∃ t, exec i s = .next t := by
  cases i with
  | configure clk => exact ⟨_, whenReady_next.2 ⟨ha, rfl⟩⟩
  | send b => exact ⟨_, whenReady_next.2 ⟨ha, rfl⟩⟩

theorem step_answers {s : State} (ha : s.params.Admitted) : ∃ t, step s = .next t := by
  cases hm : s.nextMove with
  | resetBlock => exact ⟨_, step_reset ha hm⟩
  | deviceChange d => exact ⟨_, step_device ha hm⟩
  | sampleStatus => exact ⟨_, step_sample ha hm⟩
  | proceed =>
    by_cases hp : s.phase = .idle
    · cases hw : s.hostWords with
      | nil => exact ⟨_, step_wait ha hm hp hw⟩
      | cons w ws => exact ⟨_, (step_accept ha hm hp hw).trans (acceptWord_eq w (s := s.popMove.popWord) ha hp)⟩
    · exact ⟨_, step_block ha hm hp⟩

/-- Settles O44: the step by its move and phase, the command by the gate of the port. -/
theorem admittedParameterSetAlwaysSteps : Obligations.AdmittedParameterSetAlwaysSteps :=
  fun _ i ha => ⟨step_answers ha, exec_answers i ha⟩

/-! ### The blocks of a platform (60_exceptions.md R104) -/

/-- Everything a step of block `i` of a platform can do. -/
theorem Platform.step_cases {i : Nat} {bs cs : Platform} (h : Platform.step i bs = .next cs) :
    bs.Disjoint ∧ ((bs[i]? = none ∧ cs = bs) ∨ ∃ s t, bs[i]? = some s ∧ Machine.step s = .next t ∧ cs = bs.set i t) := by
  unfold Platform.step at h
  by_cases hdis : bs.Disjoint
  case neg => rw [if_neg hdis] at h; nomatch h
  rw [if_pos hdis] at h
  refine ⟨hdis, ?_⟩
  cases hi : bs[i]? with
  | none => simp only [hi] at h; injection h with h; exact .inl ⟨rfl, h.symm⟩
  | some s =>
    cases hs : Machine.step s with
    | next t => simp only [hi, hs] at h; injection h with h; exact .inr ⟨s, t, rfl, hs, h.symm⟩
    | fault f => nomatch f
    | refused r => simp only [hi, hs] at h; nomatch h

/-- Settles O55: the step replaces the list's entry `i` alone, by that block's own next state. -/
theorem blocksOfAPlatformAreIndependent : Obligations.BlocksOfAPlatformAreIndependent := by
  intro i bs cs h
  obtain ⟨-, ⟨hi, rfl⟩ | ⟨s, t, hi, hs, rfl⟩⟩ := Platform.step_cases h
  · exact ⟨rfl, fun _ _ => rfl, fun s hs => nomatch hi.symm.trans hs⟩
  · refine ⟨List.length_set, fun j hj => List.getElem?_set_ne hj.symm, fun s' hs' => ⟨t, ?_, ?_⟩⟩
    · obtain ⟨hlt, -⟩ := List.getElem?_eq_some_iff.1 hi
      exact List.getElem?_set_self hlt
    · rwa [← Option.some.inj (hi.symm.trans hs')]

end Sys2Proof.Machine
end

section
/-! The reset and hazard statements (70_reset_and_hazards.md): what waits while BUSY and on an empty port, what a reset keeps, the
8N1 value in LCR, and what a program that ends has done. -/

namespace Sys2Proof.Machine

/-! ### The last LCR write from row 5 on (70_reset_and_hazards.md R115) -/

theorem resetWith_lcrInv (p : Params) : (State.resetWith p).LcrInv := ⟨nofun, nofun, nofun⟩

/-- The invariant speaks of the parameters, the phase, the row, `configured` and the history alone. -/
theorem State.LcrInv.congr {s t : State} (h : s.LcrInv) (hparams : t.params = s.params) (hphase : t.phase = s.phase)
    (hstep : t.stepIx = s.stepIx) (hconf : t.configured = s.configured) (hhist : t.history = s.history) : t.LcrInv := by
  unfold State.LcrInv
  rwa [hparams, hphase, hstep, hconf, hhist]

theorem State.LcrInv.of_resetBlock (s : State) : s.resetBlock.LcrInv :=
  (resetWith_lcrInv s.params).congr rfl rfl rfl rfl rfl

theorem State.LcrInv.of_recordError {s : State} (h : s.LcrInv) (c : CmdError) : (s.recordError c).LcrInv :=
  h.congr (s.recordError_params c) (s.recordError_phase c) (s.recordError_stepIx c) (s.recordError_configured c)
    (s.recordError_history c)

/-- The acceptance of a word on a ready port writes no register: CONFIGURE starts before row 5, and SEND starts on a
configured block, whose last LCR write is the 8N1 value. -/
theorem State.LcrInv.of_acceptWord {w : Cmd} {s t : State} (h : s.LcrInv) (ha : s.params.Admitted) (hp : s.phase = .idle)
    (hacc : acceptWord w s = .next t) : t.LcrInv := by
  obtain ⟨_, -, rfl⟩ | ⟨_, -, rfl⟩ | ⟨_, -, -, rfl⟩ | ⟨_, -, hc, rfl⟩ := acceptWord_cases ha hp hacc
  · exact h.of_recordError _
  · exact ⟨fun _ hrow => absurd hrow (by simp), (absurd rfl ·), nofun⟩
  · exact h.of_recordError _
  · obtain ⟨-, hlast, -⟩ := h
    exact ⟨nofun, fun _ _ => hlast (by simp [hp]) hc, fun _ => hc⟩

theorem lastLcrWrite_append_write_other {p : Params} {off : Nat} (history : List BusEvent) (v : Word)
    (hoff : off ≠ p.offLcr) : lastLcrWrite p (history ++ [writeEvent p off v]) = lastLcrWrite p history :=
  lastLcrWrite_append_other history fun ⟨_, heq⟩ => hoff heq

theorem lastLcrWrite_append_read {p : Params} (off : Nat) (history : List BusEvent) (r : Word) :
    lastLcrWrite p (history ++ [readEvent p off r]) = lastLcrWrite p history :=
  lastLcrWrite_append_other history nofun

/-- Row 5 writes the 8N1 value to LCR, and the rows after it write other registers (41_configuration.md R74). -/
theorem lastLcrWrite_append_cfgRow {p : Params} {d : Word} {k : BitVec 3} {history : List BusEvent} (hapart : LcrApart p)
    (hk : 5 ≤ k.toNat) (hlast : 6 ≤ k.toNat → lastLcrWrite p history = some p.valLcr8n1) :
    lastLcrWrite p (history ++ [writeEvent p (cfgRow p d k).1 (cfgRow p d k).2]) = some p.valLcr8n1 := by
  obtain ⟨hfcr, hmdr, -⟩ := hapart
  obtain rfl | rfl | rfl : k = 5 ∨ k = 6 ∨ k = 7 := by bv_omega
  · exact lastLcrWrite_append_lcr history rfl rfl
  · exact (lastLcrWrite_append_write_other history _ hfcr).trans (hlast (by decide))
  · exact (lastLcrWrite_append_write_other history _ hmdr).trans (hlast (by decide))

/-- A Block step keeps the invariant: no transaction after row 5 is a write of LCR. -/
theorem State.LcrInv.of_blockStep {s : State} (h : s.LcrInv) (hapart : LcrApart s.params) (hp : s.phase ≠ .idle) :
    (blockStep s).LcrInv := by
  have ⟨hrow, hlast, hsend⟩ := h
  have ⟨_, hmdr, hthr⟩ := hapart
  obtain ⟨-, heq⟩ | ⟨-, hcfg, h7, heq⟩ | ⟨-, hcfg, h7, heq⟩ | ⟨-, hpoll, -, heq⟩ | ⟨-, hpoll, -, heq⟩ | ⟨-, htx, heq⟩ :=
    blockStep_cases s hp <;> rw [heq]
  · exact h
  · refine ⟨fun _ hk => ?_, (absurd hcfg ·), hsend⟩
    have hk5 : 5 ≤ s.stepIx.toNat := by bv_omega
    exact lastLcrWrite_append_cfgRow hapart hk5 (hrow hcfg)
  · have h8n1 := hrow hcfg (by simp [h7])
    exact ⟨nofun, fun _ _ => (lastLcrWrite_append_write_other _ _ hmdr).trans h8n1, nofun⟩
  · have hc := hsend (.inl hpoll)
    have h8n1 := hlast (by simp [hpoll]) hc
    exact ⟨fun hcfg => (nomatch hcfg.symm.trans hpoll), fun _ _ => (lastLcrWrite_append_read _ _ _).trans h8n1, hsend⟩
  · have hc := hsend (.inl hpoll)
    have h8n1 := hlast (by simp [hpoll]) hc
    exact ⟨nofun, fun _ _ => (lastLcrWrite_append_read _ _ _).trans h8n1, fun _ => hc⟩
  · have h8n1 := hlast (by simp [htx]) (hsend (.inr htx))
    exact ⟨nofun, fun _ _ => (lastLcrWrite_append_write_other _ _ hthr).trans h8n1, nofun⟩

/-- Settles O51, by the cases of one step: reset, the environment's moves, a wait, the acceptance of a word, a Block step. -/
theorem lcrInvariantKeptByEveryStep : Obligations.LcrInvariantKeptByEveryStep := by
  intro s t hapart h hstep
  obtain ⟨ha, ⟨-, rfl⟩ | ⟨_, -, rfl⟩ | ⟨-, rfl⟩ | ⟨-, -, -, rfl⟩ | ⟨-, hp, _, _, -, hacc⟩ | ⟨-, hp, rfl⟩⟩ := step_cases hstep
  · exact .of_resetBlock _
  · exact h.congr rfl rfl rfl rfl rfl
  · exact h.congr rfl rfl rfl rfl rfl
  · exact h.congr rfl rfl rfl rfl rfl
  · have hword : s.popMove.popWord.LcrInv := h.congr rfl rfl rfl rfl rfl
    exact hword.of_acceptWord ha hp hacc
  · have hmove : s.popMove.LcrInv := h.congr rfl rfl rfl rfl rfl
    exact hmove.of_blockStep hapart hp

/-- Settles O52: a block in TX is configured, so its last LCR write is the 8N1 value, which has DLAB clear by the check. -/
theorem thrIsNeverWrittenWithDlabSet : Obligations.ThrIsNeverWrittenWithDlabSet := by
  refine ⟨fun s ha ⟨_, hlast, hsend⟩ htx => ?_, resetWith_lcrInv⟩
  obtain ⟨-, -, -, -, hdlab, -⟩ := ha
  exact ⟨s.params.valLcr8n1, hlast (by simp [htx]) (hsend (.inr htx)), hdlab⟩

/-! ### What waits (70_reset_and_hazards.md R108, R112, R113) -/

/-- Settles O10: a step takes a word, and a step but a reset writes `err`, only on a ready port. -/
theorem commandWhileBusyWaits : Obligations.CommandWhileBusyWaits :=
  fun _ _ hp h => ⟨step_holds_hostWords h fun ⟨_, hidle⟩ => hp hidle,
    fun hr => step_keeps_err h hr fun _ _ ⟨_, hidle, _⟩ => hp hidle⟩

/-- Settles O11: the gate of the port, which every command passes, answers the same state while BUSY. -/
theorem commandMeaningWaitsWhileBusy : Obligations.CommandMeaningWaitsWhileBusy := by
  intro s i ha hp
  cases i with
  | configure clk => exact whenReady_busy (configureAccept clk) ha hp
  | send b => exact whenReady_busy (sendAccept b) ha hp

/-- Settles O12: the step is a wait, which takes the move off the agenda. -/
theorem readyPortWithoutWordWaits : Obligations.ReadyPortWithoutWordWaits := fun _ ha hm hp hw => step_wait ha hm hp hw

/-! ### Reset (70_reset_and_hazards.md R108, R110) -/

/-- Settles O39: the step is the reset, which writes the block's fields only. -/
theorem resetKeepsHostAndDevice : Obligations.ResetKeepsHostAndDevice := by
  intro s t hm h
  rw [step_next_unique h (step_reset (admitted_of_step h) hm)]
  exact ⟨rfl, rfl, rfl, rfl, rfl, rfl⟩

/-- Settles O49: the reset state is itself the reset of a state. -/
theorem resetStateIsExplainedByNoWords : Obligations.ResetStateIsExplainedByNoWords :=
  fun p => explains_of_reset (State.resetWith p)

/-! ### Every step takes one move off the agenda (log 1) -/

theorem acceptWord_agenda {w : Cmd} {s t : State} (ha : s.params.Admitted) (hp : s.phase = .idle)
    (h : acceptWord w s = .next t) : t.agenda = s.agenda := by
  obtain ⟨_, -, rfl⟩ | ⟨_, -, rfl⟩ | ⟨_, -, -, rfl⟩ | ⟨_, -, -, rfl⟩ := acceptWord_cases ha hp h <;> simp

theorem blockStep_agenda {s : State} (hp : s.phase ≠ .idle) : (blockStep s).agenda = s.agenda := by
  obtain ⟨-, h⟩ | ⟨-, -, -, h⟩ | ⟨-, -, -, h⟩ | ⟨-, -, -, h⟩ | ⟨-, -, -, h⟩ | ⟨-, -, h⟩ := blockStep_cases s hp <;>
    simp [h]

theorem step_agenda {s t : State} (h : step s = .next t) : t.agenda = s.agenda.tail := by
  obtain ⟨ha, ⟨-, rfl⟩ | ⟨_, -, rfl⟩ | ⟨-, rfl⟩ | ⟨-, -, -, rfl⟩ | ⟨-, hp, _, _, -, hacc⟩ | ⟨-, hp, rfl⟩⟩ := step_cases h
  · exact s.popMove.resetBlock_agenda
  · exact s.popMove_agenda
  · exact s.popMove.sampleStatus_agenda
  · exact s.popMove_agenda
  · exact acceptWord_agenda (s := s.popMove.popWord) ha hp hacc
  · exact blockStep_agenda (s := s.popMove) hp

theorem nextMove_ne_reset {s : State} (h : .resetBlock ∉ s.agenda) : s.nextMove ≠ .resetBlock := by
  unfold State.nextMove
  cases hg : s.agenda with
  | nil => exact nofun
  | cons m ms => exact fun hm => h (by simp [hg, ← hm])

/-! ### A program that ends (70_reset_and_hazards.md R120) -/

/-- What every step keeps holds at the end of a run. -/
theorem runSteps_keeps {P : State → Prop} (hkeep : ∀ s t, P s → step s = .next t → P t) (n : Nat) {s t : State}
    (h : P s) (hrun : runSteps n s = .next t) : P t := by
  induction n generalizing s with
  | zero => obtain rfl := Host.Outcome.next.inj hrun; exact h
  | succ n ih =>
    cases hstep : step s with
    | next u => exact ih (hkeep s u h hstep) ((runSteps_succ n hstep).symm.trans hrun)
    | fault f => nomatch f
    | refused r => simp only [runSteps, hstep] at hrun; nomatch hrun

/-- A block with the parameters `p` in a run of `program` with no reset ahead: the words accepted so far explain it, and with
those the Host still holds they are the program. -/
structure State.RunsProgram (p : Params) (program : List Cmd) (s : State) : Prop where
  params : s.params = p
  noReset : .resetBlock ∉ s.agenda
  explained : ∃ accepted, Explains accepted s ∧ accepted ++ s.hostWords = program

theorem State.RunsProgram.of_step {p : Params} {program : List Cmd} (s t : State) (h : s.RunsProgram p program)
    (hstep : step s = .next t) : t.RunsProgram p program := by
  obtain ⟨hparams, hreset, accepted, hexp, hwords⟩ := h
  obtain ⟨accepted', hexp', hwords'⟩ := hexp.of_step hstep (nextMove_ne_reset hreset)
  exact {
    params := (parametersAreFixed s t hstep).trans hparams
    noReset := by rw [step_agenda hstep]; exact fun hm => hreset (List.mem_of_mem_tail hm)
    explained := ⟨accepted', hexp', hwords'.trans hwords⟩ }

/-- In IDLE no command is in progress: the history is the whole traces of the ended commands, which are all. -/
theorem Explains.ended_of_idle {accepted : List Cmd} {s : State} (h : Explains accepted s) (hp : s.phase = .idle) :
    ∃ ended : List EndedCommand, (∀ c ∈ ended, c.Ok s.params) ∧
      ended.map EndedCommand.instr = commandsOf false accepted ∧
      s.history = ended.flatMap (EndedCommand.trace s.params) ∧ s.err = firstErrorOf false accepted := by
  obtain ⟨ended, events, cmds, hok, hin, hhist, hcmds, -, herr⟩ := h
  obtain ⟨rfl, rfl⟩ := (inProgress_idle hp _ _).1 hin
  rw [List.append_nil] at hhist hcmds
  exact ⟨ended, hok, hcmds.symm, hhist, herr⟩

/-- Settles O50: the run starts explained by no words, every step keeps it a run of the program, and at its end the accepted
words are the program and no command is in progress. -/
theorem endedProgramHasExactlyItsTraces : Obligations.EndedProgramHasExactlyItsTraces := by
  intro p program moves d draws n t hreset hrun ⟨hwords, hidle⟩
  have hexp := (resetStateIsExplainedByNoWords p).congr (t := { State.resetWith p with
    hostWords := program, agenda := moves, device := d, draws := draws }) rfl ⟨rfl, rfl, rfl, rfl, rfl, rfl, rfl⟩
  obtain ⟨rfl, -, accepted, hexp', rfl⟩ :=
    runSteps_keeps State.RunsProgram.of_step n ⟨rfl, hreset, [], hexp, rfl⟩ hrun
  rw [hwords, List.append_nil]
  exact hexp'.ended_of_idle hidle

end Sys2Proof.Machine
end
